-- ==== Sys2Proof/Word.lean ====
section
/-! DEFINITION. The word types of the block (00_scope.md rules R6 and R9): every quantity is unsigned. -/

namespace Sys2Proof

/-- A data byte, `B_W = 8` (rule R6). -/
abbrev Byte := BitVec 8

/-- A 32-bit quantity: counts (`CNT_W`), buffer addresses (`AW`), request words (rules R6, R81). -/
abbrev Word := BitVec 32

/-- A controller handle, `CID_W = 32`, opaque (rule R6). -/
abbrev Handle := BitVec 32

/-- A slave address, `SA_W = 7` (rule R6). -/
abbrev SlaveAddr := BitVec 7

/-- A port word (rule R88). -/
abbrev PortWord := BitVec 16

end Sys2Proof
end

