-- ==== Sys2Proof/Machine/Types.lean ====
section
/-! DEFINITION. The named values of the block: directions, commands, FSM states, causes, the events of the three
histories, and the turns by which the agents of rule R20 move. -/

namespace Sys2Proof.Machine

/-- Transfer direction, `CTL.RW` and the operand `r` of `SetSlaveAddress` (rules R33, R89). -/
inductive Dir where
  | write
  | read
deriving DecidableEq, Repr, Inhabited

/-- 0 write, 1 read (rules R33, R89). -/
def Dir.bit : Dir → BitVec 1
  | .write => 0
  | .read => 1

/-- The direction a bit stands for (rule R89). -/
def Dir.ofBit (b : BitVec 1) : Dir := if b = 1 then .read else .write

/-- The nine controller commands (rule R91). -/
inductive Cmd where
  | singleSend
  | burstSendStart
  | burstSendContinue
  | burstSendFinish
  | burstReceiveStart
  | burstReceiveContinue
  | burstReceiveFinish
  | burstReceiveStop
  | singleReceiveNack
deriving DecidableEq, Repr, Inhabited

/-- All the commands, in the order of their codes (rule R91). -/
def Cmd.all : List Cmd :=
  [.singleSend, .burstSendStart, .burstSendContinue, .burstSendFinish, .burstReceiveStart, .burstReceiveContinue,
    .burstReceiveFinish, .burstReceiveStop, .singleReceiveNack]

/-- The command codes 0x0 to 0x8 (rule R91). -/
def Cmd.code : Cmd → BitVec 4
  | .singleSend => 0x0
  | .burstSendStart => 0x1
  | .burstSendContinue => 0x2
  | .burstSendFinish => 0x3
  | .burstReceiveStart => 0x4
  | .burstReceiveContinue => 0x5
  | .burstReceiveFinish => 0x6
  | .burstReceiveStop => 0x7
  | .singleReceiveNack => 0x8

/-- The direction column of rule R91: `dir(c)` of rule R114. -/
def Cmd.dir : Cmd → Dir
  | .singleSend => .write
  | .burstSendStart => .write
  | .burstSendContinue => .write
  | .burstSendFinish => .write
  | .burstReceiveStart => .read
  | .burstReceiveContinue => .read
  | .burstReceiveFinish => .read
  | .burstReceiveStop => .read
  | .singleReceiveNack => .read

/-- The column "receives a byte" of rule R91, and the set of rule R124. -/
def Cmd.receives : Cmd → Bool
  | .singleSend => false
  | .burstSendStart => false
  | .burstSendContinue => false
  | .burstSendFinish => false
  | .burstReceiveStart => true
  | .burstReceiveContinue => true
  | .burstReceiveFinish => true
  | .burstReceiveStop => false
  | .singleReceiveNack => true

/-- The two values of the error status (rules R34, R93). -/
inductive BusErr where
  | none
  | error
deriving DecidableEq, Repr, Inhabited

/-- 0 none, 1 error (rule R93). -/
def BusErr.bit : BusErr → BitVec 1
  | .none => 0
  | .error => 1

/-- The states of `S.ST` (rule R23). -/
inductive St where
  | idle | check | rphase
  | w1Sa | w1Put | w1Cmd | w1Poll | w1Err
  | wsSa | wsPut | wsCmd | wsPoll
  | wmSa | wmPut | wmCmd | wmPoll | wmErr
  | wfSa | wfPut | wfCmd | wfPoll | wfErr
  | r1Sa | r1Cmd | r1Poll | r1Err | r1Get
  | rsSa | rsCmd | rsPoll | rsGet
  | rmSa | rmCmd | rmPoll | rmGet
  | rfSa | rfCmd | rfPoll | rfGet
  | rpCmd | rpPoll | rpErr
  | doneOk | doneFail
  | idFill | idSn | idRefillSn | idMac | idRefillMac | idEnd
deriving DecidableEq, Repr, Inhabited

/-- The state codes (rule R23). -/
def St.code : St → BitVec 8
  | .idle => 0x00 | .check => 0x01 | .rphase => 0x02
  | .w1Sa => 0x10 | .w1Put => 0x11 | .w1Cmd => 0x12 | .w1Poll => 0x13 | .w1Err => 0x14
  | .wsSa => 0x18 | .wsPut => 0x19 | .wsCmd => 0x1A | .wsPoll => 0x1B
  | .wmSa => 0x20 | .wmPut => 0x21 | .wmCmd => 0x22 | .wmPoll => 0x23 | .wmErr => 0x24
  | .wfSa => 0x28 | .wfPut => 0x29 | .wfCmd => 0x2A | .wfPoll => 0x2B | .wfErr => 0x2C
  | .r1Sa => 0x40 | .r1Cmd => 0x41 | .r1Poll => 0x42 | .r1Err => 0x43 | .r1Get => 0x44
  | .rsSa => 0x48 | .rsCmd => 0x49 | .rsPoll => 0x4A | .rsGet => 0x4B
  | .rmSa => 0x50 | .rmCmd => 0x51 | .rmPoll => 0x52 | .rmGet => 0x53
  | .rfSa => 0x58 | .rfCmd => 0x59 | .rfPoll => 0x5A | .rfGet => 0x5B
  | .rpCmd => 0x60 | .rpPoll => 0x61 | .rpErr => 0x62
  | .doneOk => 0x70 | .doneFail => 0x71
  | .idFill => 0x80 | .idSn => 0x81 | .idRefillSn => 0x82 | .idMac => 0x83
  | .idRefillMac => 0x84 | .idEnd => 0x85

/-- The busy-wait states (rule R145). -/
def St.isPoll : St → Bool
  | .w1Poll | .wsPoll | .wmPoll | .wfPoll | .r1Poll | .rsPoll | .rmPoll | .rfPoll | .rpPoll => true
  | _ => false

/-- `S.MODE`: the request in progress (rules R21, R24). The code 3 is never written and is no value here. -/
inductive Mode where
  | none
  | xfer
  | ident
deriving DecidableEq, Repr, Inhabited

/-- The mode codes (rule R21). -/
def Mode.code : Mode → BitVec 2
  | .none => 0
  | .xfer => 1
  | .ident => 2

/-- `S.IDSTG`: the Identity Reader's stage (rules R21, R25). -/
inductive IdStage where
  | sn
  | mac
deriving DecidableEq, Repr, Inhabited

/-- 0 SN, 1 MAC (rule R21). -/
def IdStage.bit : IdStage → BitVec 1
  | .sn => 0
  | .mac => 1

/-- `S.WSRC`: where write bytes come from (rules R21, R28). -/
inductive WSrc where
  | mem
  | const
deriving DecidableEq, Repr, Inhabited

/-- 0 MEM, 1 CONST (rule R21). -/
def WSrc.bit : WSrc → BitVec 1
  | .mem => 0
  | .const => 1

/-- `S.CAUSE`: the abort causes (rule R211). -/
inductive Cause where
  | none
  | malformed
  | busError
  | timeout
deriving DecidableEq, Repr, Inhabited

/-- The cause codes (rule R211). -/
def Cause.code : Cause → BitVec 2
  | .none => 0
  | .malformed => 1
  | .busError => 2
  | .timeout => 3

/-- Who performs a port operation: a sequencer instance (rule R110), or anything other than the sequencer that drives
the port of the controller at a handle (rule R94; log entry 13). -/
inductive Who where
  | inst (n : Nat)
  | driver (h : Handle)
deriving DecidableEq, Repr, Inhabited

/-- One port operation with its arguments and its result (rules R38, R93, R132). -/
inductive PortOp where
  | setSlaveAddress (a : SlaveAddr) (r : Dir)
  | putData (b : Byte)
  | issueCommand (c : Cmd)
  | getData (b : Byte)
  | isBusy (v : Bool)
  | getError (e : BusErr)
deriving DecidableEq, Repr, Inhabited

/-- The events of the port history `H` (rules R38, R132). -/
inductive PortEvent where
  | port (who : Who) (op : PortOp)
  | complete (ctl : Handle) (cmd : Cmd) (err : BusErr) (data : Option Byte)
deriving DecidableEq, Repr, Inhabited

/-- The two kinds of memory access (rule R39). -/
inductive Access where
  | read
  | write
deriving DecidableEq, Repr, Inhabited

/-- The events of the memory history `MH`: instance, kind, address, byte (rule R39). -/
structure MemEvent where
  inst : Nat
  kind : Access
  addr : Nat
  byte : Byte
deriving DecidableEq, Repr, Inhabited

/-- The events of the host history `HH`: `Done(result)`, with the instance it belongs to (rule R37). -/
inductive HostEvent where
  | done (inst : Nat) (result : Bool)
deriving DecidableEq, Repr, Inhabited

/-- What the agents outside the block read: the result word of an instance (rule R87), a byte of memory (rule R77).
The model's own record (log entry 18). -/
inductive Observation where
  | result (inst : Nat) (word : Word)
  | byte (addr : Word) (b : Byte)
deriving DecidableEq, Repr, Inhabited

/-- A range of byte addresses and what the launch memory admits there (rule R65). -/
structure Region where
  base : Nat
  size : Nat
  readable : Bool
  writable : Bool
deriving DecidableEq, Repr, Inhabited

/-- The value a reset leaves in one controller (rules R241, R243): every field any legal value. `CTL.BUSY` is 1 exactly
when a command is in flight (rule R34; log entry 16). -/
structure CtlDraw where
  handle : Handle
  addr : SlaveAddr
  rw : Dir
  data : Option Byte
  err : Option BusErr
  infl : Option Cmd
deriving DecidableEq, Repr, Inhabited

/-- One turn: which agent of rule R20 moves, and with which inputs or draws (log entry 1). -/
inductive Turn where
  /-- The host submits the words of one request to an instance (rule R37). -/
  | submit (inst : Nat) (words : List Word)
  /-- The host reads `S.RESULT` of an instance (rules R37, R216). -/
  | readResult (inst : Nat)
  /-- A sequencer instance takes its next FSM step (rule R22). -/
  | seq (inst : Nat)
  /-- A controller completes its command, drawing the error status and the byte (rule R124). -/
  | complete (ctl : Handle) (err : BusErr) (data : Byte)
  /-- Something other than the sequencer drives a port word (rule R94). -/
  | drive (ctl : Handle) (word : PortWord)
  /-- Another agent writes a byte of memory (rule R77). -/
  | agentWrite (addr : Word) (b : Byte)
  /-- Another agent reads a byte of memory (rule R77). -/
  | agentRead (addr : Word)
  /-- Reset arrives; the listed controllers take the drawn values, the others keep theirs (rule R243). -/
  | reset (ctls : List CtlDraw)
deriving DecidableEq, Repr, Inhabited

/-- One line of request-level assembly, with its operands as the numbers written (rules R97, R98). -/
inductive AsmReq where
  | init (cid : Nat)
  | xfer (sa wp wn rp rn : Nat)
  | rdid (snp macp : Nat)
  /-- pseudo: write only -/
  | xferw (sa wp wn : Nat)
  /-- pseudo: read only -/
  | xferr (sa rp rn : Nat)
  /-- pseudo: one-byte write -/
  | eewr1 (sa wp : Nat)
deriving DecidableEq, Repr, Inhabited

end Sys2Proof.Machine
end

