-- ==== Sys2Proof/Config.lean ====
section
/-! DEFINITION. What an implementation fixes (00_scope.md rules R6 and R7), and the free values: constants with no body,
of which nothing can be proved. -/

namespace Sys2Proof

/-- The parameters of rules R6 and R7. They are held in the state's field `cfg`, which no step writes (log entry 3), so
that a statement over all states holds for every setting. The widths are those of the types of Word.lean, and of the
address space; `Params.wellFormed` holds the fields for which rule R6 admits one value to that value. -/
structure Params where
  /-- `SA_W`, width of a slave address -/
  saW : Nat
  /-- `B_W`, width of a data byte -/
  bW : Nat
  /-- `CNT_W`, width of a count and of the byte index -/
  cntW : Nat
  /-- `AW`, width of a buffer address: memory ends at 2^AW − 1 (rule R60) -/
  aw : Nat
  /-- `CID_W`, width of a controller handle -/
  cidW : Nat
  /-- `NCMD`, number of controller commands -/
  ncmd : Nat
  /-- `MAX_CNT`, largest count accepted -/
  maxCnt : Nat
  /-- `NINST`, number of sequencer instances: they are numbered from 0 (log entry 2) -/
  ninst : Nat
  /-- `ID_SLAVE_ADDR` -/
  idSlaveAddr : SlaveAddr
  /-- `MAC_SLAVE_ADDR` (90_conflicts.md C5) -/
  macSlaveAddr : SlaveAddr
  /-- `EEPROM_SLAVE_ADDR`; no operation of the block uses it (rules R7, R202) -/
  eepromSlaveAddr : SlaveAddr
  /-- `SN_WORD_ADDR` -/
  snWordAddr : Byte
  /-- `MAC_WORD_ADDR` -/
  macWordAddr : Byte
  /-- `SN_LEN` -/
  snLen : Word
  /-- `MAC_LEN` -/
  macLen : Word
  /-- `SENTINEL` -/
  sentinel : Byte
  /-- `BUSY_TIMEOUT`; `some k` with `k ≥ 1` is the documented deviation -/
  busyTimeout : Option Nat
  /-- `IDENTITY_REFILL_ON_FAILURE` -/
  refillOnFailure : Bool
deriving DecidableEq, Repr

/-- The values of rules R6 and R7; of `NINST`, which may be any count, one for every handle (DESIGN CHOICE, log entry 2). -/
def Params.normative : Params where
  saW := 7
  bW := 8
  cntW := 32
  aw := 32
  cidW := 32
  ncmd := 9
  maxCnt := 2 ^ 32 - 1
  ninst := 2 ^ 32
  idSlaveAddr := 0x58
  macSlaveAddr := 0x58
  eepromSlaveAddr := 0x50
  snWordAddr := 0x80
  macWordAddr := 0x9A
  snLen := 16
  macLen := 6
  sentinel := 0xFF
  busyTimeout := none
  refillOnFailure := true

/-- FREE VALUE (log entry 1): the turn the environment chooses when no turn is listed. -/
opaque Config.freeTurn : Nat → Machine.Turn

/-- FREE VALUE (log entries 10 and 11): a drawn byte (rules R77 and R113). -/
opaque Config.freeByte : Nat → Byte

/-- FREE VALUE (log entry 10): a drawn error status (rule R126). -/
opaque Config.freeErr : Nat → Machine.BusErr

/-- FREE VALUE (log entry 12): `S.TC + 1` where the sum leaves 32 bits (rule R127 states no value). -/
opaque Config.freeCount : Nat → Word

end Sys2Proof
end

