-- ==== Sys2Proof/Syntax.lean ====
section
/-! DEFINITION. The instructions: one constructor per row of spec/opcode_table.json, operands at the widths of rule R95. -/

namespace Sys2Proof

/-- The three requests and the fourteen port operations. -/
inductive Instr where
  /-- `INIT cid` (R82, R203) -/
  | init (cid : Handle)
  /-- `XFER sa, wp, wn, rp, rn` (R83, R140) -/
  | xfer (sa : SlaveAddr) (wp wn rp rn : Word)
  /-- `RDID snp, macp` (R84, R190) -/
  | rdid (snp macp : Word)
  /-- `SSA a, r` (R89, R111) -/
  | ssa (a : SlaveAddr) (r : Machine.Dir)
  /-- `PUT b` (R90, R112) -/
  | put (b : Byte)
  /-- `GET` (R92, R113) -/
  | get
  /-- `CMD SINGLE_SEND` (R115) -/
  | cmdSingleSend
  /-- `CMD BURST_SEND_START` (R116) -/
  | cmdBurstSendStart
  /-- `CMD BURST_SEND_CONTINUE` (R117) -/
  | cmdBurstSendContinue
  /-- `CMD BURST_SEND_FINISH` (R118) -/
  | cmdBurstSendFinish
  /-- `CMD BURST_RECEIVE_START` (R119) -/
  | cmdBurstReceiveStart
  /-- `CMD BURST_RECEIVE_CONTINUE` (R120) -/
  | cmdBurstReceiveContinue
  /-- `CMD BURST_RECEIVE_FINISH` (R121) -/
  | cmdBurstReceiveFinish
  /-- `CMD BURST_RECEIVE_STOP` (R122) -/
  | cmdBurstReceiveStop
  /-- `CMD SINGLE_RECEIVE_NACK` (R123) -/
  | cmdSingleReceiveNack
  /-- `IS_BUSY` (R125) -/
  | isBusy
  /-- `GET_ERROR` (R126) -/
  | getError
deriving DecidableEq, Repr

end Sys2Proof
end

