-- ==== Sys2Proof/WellFormed.lean ====
section
/-! DEFINITION. What a well-formed instruction, parameter setting and assembly line is. -/

namespace Sys2Proof

/-- An instruction is well formed when each operand fits its field. Every operand of `Instr` has exactly the width of its
field (rule R95), and every value of every field is admitted (rules R83, R111), so every term is well formed; the ranges
that can be broken are those of an assembly line (`AsmReq.wellFormed`, rule R97). -/
def Instr.wellFormed : Instr → Bool
  | .init _ => true
  | .xfer _ _ _ _ _ => true
  | .rdid _ _ => true
  | .ssa _ _ => true
  | .put _ => true
  | .get => true
  | .cmdSingleSend => true
  | .cmdBurstSendStart => true
  | .cmdBurstSendContinue => true
  | .cmdBurstSendFinish => true
  | .cmdBurstReceiveStart => true
  | .cmdBurstReceiveContinue => true
  | .cmdBurstReceiveFinish => true
  | .cmdBurstReceiveStop => true
  | .cmdSingleReceiveNack => true
  | .isBusy => true
  | .getError => true

/-- `BUSY_TIMEOUT = some k` needs `k ≥ 1` (rule R6). -/
def Params.timeoutOk (p : Params) : Bool :=
  match p.busyTimeout with
  | none => true
  | some k => decide (1 ≤ k)

/-- The widths and counts of which rule R6 admits one value: those the types are built at, all nine commands, every count. -/
def Params.sizesOk (p : Params) : Bool :=
  p.saW == 7 && p.bW == 8 && p.cntW == 32 && p.aw == 32 && p.cidW == 32 && p.ncmd == Machine.Cmd.all.length &&
    p.maxCnt == 2 ^ p.cntW - 1

/-- What rule R6 asks of a parameter setting. -/
def Params.wellFormed (p : Params) : Bool := p.timeoutOk && p.sizesOk && decide (1 ≤ p.ninst)

/-- A slave address on an assembly line is in 0..0x7F (rule R97). -/
def Machine.AsmReq.saOk (sa : Nat) : Bool := decide (sa < 2 ^ 7)

/-- Every other operand is in 0..0xFFFFFFFF (rule R97). -/
def Machine.AsmReq.wordOk (v : Nat) : Bool := decide (v < 2 ^ 32)

/-- The operand ranges of rule R97. -/
def Machine.AsmReq.wellFormed : Machine.AsmReq → Bool
  | .init cid => wordOk cid
  | .xfer sa wp wn rp rn => saOk sa && wordOk wp && wordOk wn && wordOk rp && wordOk rn
  | .rdid snp macp => wordOk snp && wordOk macp
  | .xferw sa wp wn => saOk sa && wordOk wp && wordOk wn
  | .xferr sa rp rn => saOk sa && wordOk rp && wordOk rn
  | .eewr1 sa wp => saOk sa && wordOk wp

end Sys2Proof
end

