-- ==== Sys2Proof/Decode.lean ====
section
/-! DEFINITION. The two encoded interfaces (30_encoding.md): the decoder, the encoder, and the opcode table. -/

namespace Sys2Proof

/-- What stands on an interface: the words of one request (rule R81), or one port word (rule R88). -/
inductive Code where
  | request (words : List Word)
  | port (word : PortWord)
deriving DecidableEq, Repr

/-- Why words are no instruction. -/
inductive DecodeError where
  /-- header bits 31:28 are none of 1, 2, 3 (rule R86) -/
  | reservedOp
  /-- reserved header bits are not 0 (rule R86) -/
  | reservedBits
  /-- the number of words is not the descriptor's (rule R85; log entry 14) -/
  | wrongLength
  /-- port bits 15:12 are none of 1 to 6 (rule R94) -/
  | reservedPrim
  /-- reserved port operand bits are not 0 (rule R94) -/
  | reservedOperand
  /-- command code 0x9 to 0xF (rule R94) -/
  | reservedCode
deriving DecidableEq, Repr

/-- What a header word says (rules R81 to R84, R96). -/
inductive Header where
  | init
  | transfer (sa : SlaveAddr)
  | readIdentity
deriving DecidableEq, Repr

/-- The header word (rules R81, R86): total, so every word is one of three headers or invalid (rule R96). -/
def decodeHeader (hdr : Word) : Except DecodeError Header :=
  match (hdr.extractLsb' 28 4).toNat with
  | 1 => if hdr.extractLsb' 0 28 = 0 then .ok .init else .error .reservedBits
  | 2 => if hdr.extractLsb' 7 21 = 0 then .ok (.transfer (hdr.extractLsb' 0 7)) else .error .reservedBits
  | 3 => if hdr.extractLsb' 0 28 = 0 then .ok .readIdentity else .error .reservedBits
  | _ => .error .reservedOp

/-- The number of words of a descriptor, by its `OP` alone (rule R85). -/
def Header.length : Header → Nat
  | .init => 2
  | .transfer _ => 5
  | .readIdentity => 3

/-- A request: the header, then exactly the operand words of rules R82 to R84. -/
def decodeRequest : List Word → Except DecodeError Instr
  | [] => .error .wrongLength
  | hdr :: ops =>
    match decodeHeader hdr with
    | .error e => .error e
    | .ok .init =>
      match ops with
      | [cid] => .ok (.init cid)
      | _ => .error .wrongLength
    | .ok (.transfer sa) =>
      match ops with
      | [wp, wn, rp, rn] => .ok (.xfer sa wp wn rp rn)
      | _ => .error .wrongLength
    | .ok .readIdentity =>
      match ops with
      | [snp, macp] => .ok (.rdid snp macp)
      | _ => .error .wrongLength

/-- The instruction of a command code (rule R91). -/
def decodeCommand (code : BitVec 4) : Except DecodeError Instr :=
  match code.toNat with
  | 0 => .ok .cmdSingleSend
  | 1 => .ok .cmdBurstSendStart
  | 2 => .ok .cmdBurstSendContinue
  | 3 => .ok .cmdBurstSendFinish
  | 4 => .ok .cmdBurstReceiveStart
  | 5 => .ok .cmdBurstReceiveContinue
  | 6 => .ok .cmdBurstReceiveFinish
  | 7 => .ok .cmdBurstReceiveStop
  | 8 => .ok .cmdSingleReceiveNack
  | _ => .error .reservedCode

/-- A port word (rules R88 to R92, R94, R95). -/
def decodePort (w : PortWord) : Except DecodeError Instr :=
  match (w.extractLsb' 12 4).toNat with
  | 1 =>
    if w.extractLsb' 8 4 = 0 then .ok (.ssa (w.extractLsb' 1 7) (Machine.Dir.ofBit (w.extractLsb' 0 1)))
    else .error .reservedOperand
  | 2 => if w.extractLsb' 8 4 = 0 then .ok (.put (w.extractLsb' 0 8)) else .error .reservedOperand
  | 3 => if w.extractLsb' 0 12 = 0 then .ok .get else .error .reservedOperand
  | 4 => if w.extractLsb' 4 8 = 0 then decodeCommand (w.extractLsb' 0 4) else .error .reservedOperand
  | 5 => if w.extractLsb' 0 12 = 0 then .ok .isBusy else .error .reservedOperand
  | 6 => if w.extractLsb' 0 12 = 0 then .ok .getError else .error .reservedOperand
  | _ => .error .reservedPrim

/-- The decoder of both interfaces. -/
def decode : Code → Except DecodeError Instr
  | .request ws => decodeRequest ws
  | .port w => decodePort w

/-- A header word from its fields: `OP` in 31:28, reserved bits 0, `SA` in 6:0 (rule R81). -/
def headerWord (op : BitVec 4) (sa : SlaveAddr) : Word := (op ++ (0 : BitVec 21)) ++ sa

/-- A port word from its fields: `PRIM` in 15:12, reserved bits 0, operand in 7:0 (rule R88). -/
def portWord (prim : BitVec 4) (operand : BitVec 8) : PortWord := (prim ++ (0 : BitVec 4)) ++ operand

/-- The words of a `SetSlaveAddress`: `0x1000 | a << 1 | r` (rules R89, R95). -/
def ssaWord (a : SlaveAddr) (r : Machine.Dir) : PortWord := portWord 0x1 (a ++ r.bit)

/-- The word of an `IssueCommand`: `0x4000 | code` (rules R91, R95). -/
def cmdWord (c : Machine.Cmd) : PortWord := portWord 0x4 ((0 : BitVec 4) ++ c.code)

/-- The encoder (rules R82 to R84, R89 to R92). -/
def encode : Instr → Code
  | .init cid => .request [headerWord 0x1 0, cid]
  | .xfer sa wp wn rp rn => .request [headerWord 0x2 sa, wp, wn, rp, rn]
  | .rdid snp macp => .request [headerWord 0x3 0, snp, macp]
  | .ssa a r => .port (ssaWord a r)
  | .put b => .port (portWord 0x2 b)
  | .get => .port (portWord 0x3 0)
  | .cmdSingleSend => .port (cmdWord .singleSend)
  | .cmdBurstSendStart => .port (cmdWord .burstSendStart)
  | .cmdBurstSendContinue => .port (cmdWord .burstSendContinue)
  | .cmdBurstSendFinish => .port (cmdWord .burstSendFinish)
  | .cmdBurstReceiveStart => .port (cmdWord .burstReceiveStart)
  | .cmdBurstReceiveContinue => .port (cmdWord .burstReceiveContinue)
  | .cmdBurstReceiveFinish => .port (cmdWord .burstReceiveFinish)
  | .cmdBurstReceiveStop => .port (cmdWord .burstReceiveStop)
  | .cmdSingleReceiveNack => .port (cmdWord .singleReceiveNack)
  | .isBusy => .port (portWord 0x5 0)
  | .getError => .port (portWord 0x6 0)

/-- The first word of an encoded instruction, a port word zero-extended: what the opcode table's match and mask see. -/
def Code.firstWord : Code → Word
  | .request ws => ws.headD 0
  | .port w => w.setWidth 32

/-- Whether the words are a request's (32 bits wide) or the port's (16 bits wide). -/
def Code.width : Code → Nat
  | .request _ => 32
  | .port _ => 16

/-- One row of spec/opcode_table.json: a word of the given width is the row's when its bits under `mask` are `value`. -/
structure OpcodeRow where
  mnemonic : String
  width : Nat
  value : Word
  mask : Word
deriving DecidableEq, Repr

/-- The request rows. -/
def requestRows : List OpcodeRow :=
  [⟨"INIT", 32, 0x10000000, 0xFFFFFFFF⟩, ⟨"XFER", 32, 0x20000000, 0xFFFFFF80⟩, ⟨"RDID", 32, 0x30000000, 0xFFFFFFFF⟩]

/-- The command rows. -/
def commandRows : List OpcodeRow :=
  [⟨"CMD.SINGLE_SEND", 16, 0x4000, 0xFFFF⟩, ⟨"CMD.BURST_SEND_START", 16, 0x4001, 0xFFFF⟩,
    ⟨"CMD.BURST_SEND_CONTINUE", 16, 0x4002, 0xFFFF⟩, ⟨"CMD.BURST_SEND_FINISH", 16, 0x4003, 0xFFFF⟩,
    ⟨"CMD.BURST_RECEIVE_START", 16, 0x4004, 0xFFFF⟩, ⟨"CMD.BURST_RECEIVE_CONTINUE", 16, 0x4005, 0xFFFF⟩,
    ⟨"CMD.BURST_RECEIVE_FINISH", 16, 0x4006, 0xFFFF⟩, ⟨"CMD.BURST_RECEIVE_STOP", 16, 0x4007, 0xFFFF⟩,
    ⟨"CMD.SINGLE_RECEIVE_NACK", 16, 0x4008, 0xFFFF⟩]

/-- The port rows. -/
def portRows : List OpcodeRow :=
  [⟨"SSA", 16, 0x1000, 0xFF00⟩, ⟨"PUT", 16, 0x2000, 0xFF00⟩, ⟨"GET", 16, 0x3000, 0xFFFF⟩] ++ commandRows ++
    [⟨"IS_BUSY", 16, 0x5000, 0xFFFF⟩, ⟨"GET_ERROR", 16, 0x6000, 0xFFFF⟩]

/-- spec/opcode_table.json (rule R96). -/
def opcodeTable : List OpcodeRow := requestRows ++ portRows

/-- The word is the row's. -/
def OpcodeRow.matchesWord (r : OpcodeRow) (w : Word) : Bool := w &&& r.mask == r.value

/-- Some word of one width is both rows'. -/
def OpcodeRow.overlaps (r q : OpcodeRow) : Bool :=
  r.width == q.width && (r.value ^^^ q.value) &&& (r.mask &&& q.mask) == 0

/-- An instruction's mnemonic in the opcode table. -/
def Instr.mnemonic : Instr → String
  | .init _ => "INIT"
  | .xfer _ _ _ _ _ => "XFER"
  | .rdid _ _ => "RDID"
  | .ssa _ _ => "SSA"
  | .put _ => "PUT"
  | .get => "GET"
  | .cmdSingleSend => "CMD.SINGLE_SEND"
  | .cmdBurstSendStart => "CMD.BURST_SEND_START"
  | .cmdBurstSendContinue => "CMD.BURST_SEND_CONTINUE"
  | .cmdBurstSendFinish => "CMD.BURST_SEND_FINISH"
  | .cmdBurstReceiveStart => "CMD.BURST_RECEIVE_START"
  | .cmdBurstReceiveContinue => "CMD.BURST_RECEIVE_CONTINUE"
  | .cmdBurstReceiveFinish => "CMD.BURST_RECEIVE_FINISH"
  | .cmdBurstReceiveStop => "CMD.BURST_RECEIVE_STOP"
  | .cmdSingleReceiveNack => "CMD.SINGLE_RECEIVE_NACK"
  | .isBusy => "IS_BUSY"
  | .getError => "GET_ERROR"

/-- Word `k` of an instruction whose bits are `w`, the first word lowest. -/
def tableWordAt (w k : Nat) : Word := BitVec.ofNat 32 (w >>> (32 * k))

/-- The code an instruction of the opcode table with bits `w` stands for: `nbits` at most 16 is a port word; else the
header of a request and, above `nbits`, operand words of zeros, as many as the header's `OP` takes (rule R85). -/
def tableCode (nbits w : Nat) : Code :=
  let bits := w % 2 ^ nbits
  if nbits ≤ 16 then .port (BitVec.ofNat 16 bits)
  else
    match decodeHeader (tableWordAt bits 0) with
    | .error _ => .request [tableWordAt bits 0]
    | .ok h => .request ((List.range h.length).map (tableWordAt bits))

/-- What the decoder reads from an instruction whose bits are `w`. -/
def decodeTableWord (nbits w : Nat) : Option Instr :=
  match decode (tableCode nbits w) with
  | .ok i => some i
  | .error _ => none

end Sys2Proof
end

