-- ==== Sys2Proof/Machine/Sparse.lean ====
section
/-! DEFINITION. Sparse tables: what a key holds is listed only where it differs from what an unlisted key holds. Memory,
the sequencer instances and the controllers are kept so, in one canonical form (keys strictly rising, no entry equal to the
unlisted value), so that equal contents are equal data. -/

namespace Sys2Proof.Machine

/-- What key `k` holds, `d` where nothing is listed. -/
def Sparse.get {α : Type} (d : α) : List (Nat × α) → Nat → α
  | [], _ => d
  | (a, v) :: t, k => if a = k then v else Sparse.get d t k

/-- The table without key `k`. -/
def Sparse.erase {α : Type} : List (Nat × α) → Nat → List (Nat × α)
  | [], _ => []
  | (a, v) :: t, k => if a = k then Sparse.erase t k else (a, v) :: Sparse.erase t k

/-- A new entry put before the first larger key. -/
def Sparse.insert {α : Type} : List (Nat × α) → Nat → α → List (Nat × α)
  | [], k, v => [(k, v)]
  | (a, w) :: t, k, v => if k < a then (k, v) :: (a, w) :: t else (a, w) :: Sparse.insert t k v

/-- The table in which key `k` holds `v`, in canonical form. -/
def Sparse.put {α : Type} [DecidableEq α] (d : α) (m : List (Nat × α)) (k : Nat) (v : α) : List (Nat × α) :=
  if v = d then Sparse.erase m k else Sparse.insert (Sparse.erase m k) k v

/-- Every key of the table is at least `lo`, the keys rise strictly, and no entry equals `d`. -/
def Sparse.wfFrom {α : Type} [DecidableEq α] (d : α) : Nat → List (Nat × α) → Bool
  | _, [] => true
  | lo, (a, v) :: t => decide (lo ≤ a) && decide (v ≠ d) && Sparse.wfFrom d (a + 1) t

/-- The canonical form. -/
def Sparse.wf {α : Type} [DecidableEq α] (d : α) (m : List (Nat × α)) : Bool := Sparse.wfFrom d 0 m

end Sys2Proof.Machine
end

