-- ==== Sys2Proof/Machine/State.lean ====
section
/-! DEFINITION. The machine's state, everything the spec gives it (10_state.md), and the state after reset (70_reset). -/

namespace Sys2Proof.Machine

/-- The registers of one sequencer instance (rule R21), under the spec's names in small letters. -/
structure Sequencer where
  /-- `S.ST` (R22, R23) -/
  st : St
  /-- `S.MODE` (R24) -/
  mode : Mode
  /-- `S.IDSTG` (R25) -/
  idstg : IdStage
  /-- `S.BOUND` (R26) -/
  bound : Bool
  /-- `S.CTLID` (R26) -/
  ctlid : Handle
  /-- `S.SA` (R27) -/
  sa : SlaveAddr
  /-- `S.WSRC` (R28) -/
  wsrc : WSrc
  /-- `S.WK` (R28) -/
  wk : Byte
  /-- `S.WP` (R27) -/
  wp : Word
  /-- `S.WN` (R27) -/
  wn : Word
  /-- `S.RP` (R27) -/
  rp : Word
  /-- `S.RN` (R27) -/
  rn : Word
  /-- `S.I` (R29) -/
  i : Word
  /-- `S.J` (R30) -/
  j : BitVec 5
  /-- `S.TC` (R31) -/
  tc : Word
  /-- `S.XOK` (R32) -/
  xok : Bool
  /-- `S.CAUSE` (R32, R211) -/
  cause : Cause
  /-- `S.RESULT` (R32); `none` is ⊥, the reset value that rules R21, R35 and R240 give it, whose read rule R216 makes a fault -/
  result : Option Bool
  /-- `S.SNP` (R40) -/
  snp : Word
  /-- `S.MACP` (R40) -/
  macp : Word
deriving DecidableEq, Repr

/-- The registers after reset (rule R240). The spec gives `ST`, `MODE`, `BOUND` and the ⊥ of `RESULT`; every other value
here is a DESIGN CHOICE, unsafe, log entry 4. -/
def Sequencer.reset : Sequencer where
  st := .idle
  mode := .none
  idstg := .sn
  bound := false
  ctlid := 0
  sa := 0
  wsrc := .mem
  wk := 0
  wp := 0
  wn := 0
  rp := 0
  rn := 0
  i := 0
  j := 0
  tc := 0
  xok := false
  cause := .none
  result := none
  snp := 0
  macp := 0

/-- The controller's state as the port shows it (rule R33). -/
structure Controller where
  /-- `CTL.ADDR` -/
  addr : SlaveAddr
  /-- `CTL.RW` -/
  rw : Dir
  /-- `CTL.DATA`; `none` is the spec's own ⊥, which rule R113 tests (log entry 6) -/
  data : Option Byte
  /-- `CTL.BUSY` -/
  busy : Bool
  /-- `CTL.ERR`; `none` is the spec's own ⊥, which rule R126 tests (log entry 6) -/
  err : Option BusErr
  /-- `CTL.INFL` -/
  infl : Option Cmd
deriving DecidableEq, Repr

/-- A controller after reset. Rule R241 says "any value"; `BUSY` and `INFL` are those of the launch premise `ctl_quiet`
(R245), `ADDR` and `RW` are zero: DESIGN CHOICE, unsafe, log entry 5. -/
def Controller.reset : Controller where
  addr := 0
  rw := .write
  data := none
  busy := false
  err := none
  infl := none

/-- The state of the block and of the agents around it. -/
structure State where
  /-- The parameters (rules R6, R7); no step writes them (log entry 3). -/
  cfg : Params
  /-- The sequencer instances, by number (rules R20, R225); an unlisted one is as after reset, and so is one from `NINST` on
  (log entry 2). -/
  seqs : List (Nat × Sequencer)
  /-- The controllers, by handle (rules R20, R33); an unlisted one is as after reset. -/
  ctls : List (Nat × Controller)
  /-- Caller memory, by address (rule R60); an unlisted byte reads 0x00 (log entry 7). -/
  mem : List Host.Cell
  /-- What the launch memory admits (rule R65; log entry 8). -/
  admission : List Region
  /-- The port history `H` (rule R38). -/
  h : List PortEvent
  /-- The memory history `MH` (rule R39). -/
  mh : List MemEvent
  /-- The host history `HH` (rule R37). -/
  hh : List HostEvent
  /-- MODEL'S OWN: the turns to come (log entry 1). -/
  env : List Turn
  /-- MODEL'S OWN: how many free values have been drawn (log entry 10). -/
  draws : Nat
  /-- MODEL'S OWN: the instance whose request interface is addressed (log entry 13). -/
  selInst : Nat
  /-- MODEL'S OWN: who performs a port instruction (log entry 13). -/
  portBy : Who
  /-- MODEL'S OWN: what the agents outside have read (log entry 18). -/
  obs : List Observation
  /-- MODEL'S OWN: the bytes of the buffers of each instance's request, as instance and address, that another agent has written
  since the request was accepted (rule R77; log entry 24). -/
  raced : List (Nat × Nat)
deriving DecidableEq, Repr

/-- Why a step stops with a fault (rule R216). Every one is a use outside the source's contract and ends the run (rule R215);
each is safe: no claim can be proved of a run that has stopped. -/
inductive Fault where
  /-- Raised by `INIT`, `XFER` and `RDID` to an instance that is not `IDLE` (rule R37). Safe. -/
  | overlap
  /-- Raised by `XFER` and `RDID` before `INIT` (rule R26). Safe. -/
  | notBound
  /-- Raised by `XFER` and `RDID` while another instance bound to the same handle is not `IDLE` (rule R142). Safe. -/
  | sharedController
  /-- Raised by `SSA`, `PUT` and the nine commands while `CTL.BUSY = 1` (rule R128). Safe. -/
  | portBusy
  /-- Raised by the nine commands where the command's direction is not `CTL.RW` (rule R129). Safe. -/
  | dirMismatch
  /-- Raised by the host's read of `S.RESULT` while it is ⊥, as rules R216 and R240 say. Safe. -/
  | readUnset
deriving DecidableEq, Repr

/-- Why a step refuses. Every one is safe: the run stops. -/
inductive Refusal where
  /-- The arm of an instruction without a meaning. Safe. -/
  | notModelled (mnemonic : String)
  /-- A request header with a reserved `OP` or reserved bits not 0 (rule R86), raised when the host submits it. Safe. -/
  | badDescriptor
  /-- A submission whose number of words is not that of its descriptor (rule R85 gives the length; the spec says nothing
  of such a submission; log entry 14). Safe. -/
  | wrongLength
  /-- An invalid port word from anything other than the sequencer (rule R94). Safe. -/
  | badPortWord
deriving DecidableEq, Repr

/-- The outcome of a step or of a meaning. -/
abbrev Result := Host.Outcome State Fault Refusal

/-- What an unlisted byte of memory reads as (log entry 7). -/
def unlistedByte : Byte := 0x00

/-- The one region of the reset state: every address, both kinds of access (log entry 8). -/
def Region.everything : Region := ⟨0, 2 ^ 32, true, true⟩

/-- The machine after reset: every instance as rule R240 says, the histories empty (rule R242). What the spec leaves open
is a DESIGN CHOICE: the controllers (log entry 5), memory (7), its admission (8), the parameters at their normative
values (rule R6), and the model's own fields (1, 10, 13, 18, 24). -/
def State.reset : State where
  cfg := Params.normative
  seqs := []
  ctls := []
  mem := []
  admission := [Region.everything]
  h := []
  mh := []
  hh := []
  env := []
  draws := 0
  selInst := 0
  portBy := .driver 0
  obs := []
  raced := []

end Sys2Proof.Machine
end

