-- ==== Sys2Proof/Machine/Flags.lean ====
section
/-! DEFINITION. The status flags and the counters: how `CTL.BUSY`, `CTL.ERR`, `CTL.DATA`, `S.XOK`, `S.CAUSE`, `S.RESULT`
and `S.TC` are written and read (rules R31, R32, R35). -/

namespace Sys2Proof.Machine

/-- `IssueCommand`: the command goes in flight and `CTL.BUSY` is set in the same step (rule R114). -/
def Controller.issue (c : Cmd) (k : Controller) : Controller := { k with infl := some c, busy := true }

/-- `SetSlaveAddress` (rule R111). -/
def Controller.address (a : SlaveAddr) (r : Dir) (k : Controller) : Controller := { k with addr := a, rw := r }

/-- `PutData` (rule R112). -/
def Controller.load (b : Byte) (k : Controller) : Controller := { k with data := some b }

/-- Completion of command `c` with the draws `e` and `d` (rule R124). -/
def Controller.complete (c : Cmd) (e : BusErr) (d : Byte) (k : Controller) : Controller :=
  { k with err := some e, data := if c.receives then some d else k.data, infl := none, busy := false }

/-- What `GetData` reads, `none` where the value is drawn (rule R113). -/
def Controller.shownData (k : Controller) : Option Byte := if k.busy then none else k.data

/-- What `GetError` reads, `none` where the value is drawn (rule R126). -/
def Controller.shownErr (k : Controller) : Option BusErr := if k.busy then none else k.err

/-- The controller a reset leaves (rules R241, R243), `CTL.BUSY` as rule R34 says (log entry 16). -/
def CtlDraw.controller (d : CtlDraw) : Controller where
  addr := d.addr
  rw := d.rw
  data := d.data
  busy := d.infl.isSome
  err := d.err
  infl := d.infl

/-- The outcome of a successful transfer in `S.XOK` and `S.CAUSE` (rule R148). -/
def Sequencer.succeeded (q : Sequencer) : Sequencer := { q with xok := true, cause := .none }

/-- The outcome of a failed transfer in `S.XOK`; `S.CAUSE` keeps what `fail` wrote (rule R147). -/
def Sequencer.failed (q : Sequencer) : Sequencer := { q with xok := false }

/-- The 32-bit result word: bit 0 the result, the others 0 (rule R87). -/
def resultWord (b : Bool) : Word := if b then 1 else 0

/-- Whether the poll just made is the k-th consecutive busy poll of `BUSY_TIMEOUT = some k` (rules R127, R214). -/
def timedOut (timeout : Option Nat) (tc : Word) : Bool :=
  match timeout with
  | none => false
  | some k => decide (tc.toNat + 1 ≥ k)

/-- The column "status checked" of rule R144: whether the step of this command is followed by an error check. -/
def Cmd.checked : Cmd → Bool
  | .singleSend => true
  | .burstSendStart => false
  | .burstSendContinue => true
  | .burstSendFinish => true
  | .burstReceiveStart => false
  | .burstReceiveContinue => false
  | .burstReceiveFinish => false
  | .burstReceiveStop => true
  | .singleReceiveNack => true

/-- The tri-state outcome of a step (rule R36). -/
inductive StepOutcome where
  | noError
  | busError
  | busyTimeout
deriving DecidableEq, Repr

/-- The outcome of the step of a command, from its busy-wait and its error check (rule R36): the busy-wait ended by the timeout
hook, or the controller went idle with status `e`, which an unchecked step does not look at. -/
def Cmd.outcome (c : Cmd) (hookEnded : Bool) (e : BusErr) : StepOutcome :=
  if hookEnded then .busyTimeout
  else if c.checked = true ∧ e = .error then .busError
  else .noError

/-- `S.TC + 1`, `none` where the sum leaves 32 bits and the spec states no value (rule R127; log entry 12). -/
def countUp (tc : Word) : Option Word := if tc.toNat + 1 < 2 ^ 32 then some (BitVec.ofNat 32 (tc.toNat + 1)) else none

end Sys2Proof.Machine
end

