-- ==== Sys2Proof/Machine/Ops.lean ====
section
/-! DEFINITION. The named operations over registers, memory, port and histories; the abort, shared by every state that
raises one (rules R147, R210), and the return from it (rules R147, R148, R219). -/

namespace Sys2Proof.Machine

/-- The result of one operation handed to the next; a fault or a refusal ends the step. -/
def Result.andThen (r : Result) (f : State → Result) : Result :=
  match r with
  | .next s => f s
  | .fault e => .fault e
  | .refused e => .refused e

/-- The registers of instance `n` (rule R225). -/
def State.seq (s : State) (n : Nat) : Sequencer := Sparse.get Sequencer.reset s.seqs n

/-- Instance `n` takes the registers `q`. -/
def State.setSeq (s : State) (n : Nat) (q : Sequencer) : State :=
  { s with seqs := Sparse.put Sequencer.reset s.seqs n q }

/-- The controller at handle `h` (rule R33). -/
def State.ctl (s : State) (h : Handle) : Controller := Sparse.get Controller.reset s.ctls h.toNat

/-- The controller at handle `h` becomes `k`. -/
def State.setCtl (s : State) (h : Handle) (k : Controller) : State :=
  { s with ctls := Sparse.put Controller.reset s.ctls h.toNat k }

/-- The byte at an address (rule R60). -/
def State.byteAt (s : State) (a : Nat) : Byte := Sparse.get unlistedByte s.mem a

/-- The byte at an address becomes `b`. -/
def State.setByte (s : State) (a : Nat) (b : Byte) : State := { s with mem := Sparse.put unlistedByte s.mem a b }

/-- The free value counter goes on by one (log entry 10). -/
def State.drawn (s : State) : State := { s with draws := s.draws + 1 }

/-- `H` gains one event (rule R38). -/
def State.logPort (s : State) (w : Who) (op : PortOp) : State := { s with h := s.h ++ [.port w op] }

/-- `MH` gains one event (rule R39). -/
def State.logMem (s : State) (n : Nat) (k : Access) (a : Nat) (b : Byte) : State :=
  { s with mh := s.mh ++ [⟨n, k, a, b⟩] }

/-- `HH` gains `Done(result)` (rule R37). -/
def State.logDone (s : State) (n : Nat) (result : Bool) : State := { s with hh := s.hh ++ [.done n result] }

/-- `st <- STATE` (rule R10). -/
def State.goto (s : State) (n : Nat) (st : St) : State := s.setSeq n { s.seq n with st := st }

/-- Whether the range admits the access. -/
def Region.admits (r : Region) (k : Access) (a : Nat) : Bool :=
  decide (r.base ≤ a) && decide (a < r.base + r.size) &&
    (match k with
    | .read => r.readable
    | .write => r.writable)

/-- Whether the launch memory admits the access; no address above 2^AW − 1 is ever admitted (rules R60, R65, R66). -/
def State.admits (s : State) (k : Access) (a : Nat) : Bool :=
  decide (a < 2 ^ s.cfg.aw) && s.admission.any (fun r => r.admits k a)

/-- The address lies in the `len` bytes from `base`. -/
def inBuffer (base : Word) (len : Nat) (a : Nat) : Bool := decide (base.toNat ≤ a) && decide (a < base.toNat + len)

/-- The address is a byte of the write buffer of the request in progress (rules R66, R77). -/
def Sequencer.writeBufferHas (a : Nat) (q : Sequencer) : Bool :=
  match q.mode with
  | .xfer => inBuffer q.wp q.wn.toNat a
  | .ident => false
  | .none => false

/-- The address is a byte of the read buffer, or of an output, of the request in progress (rules R66, R77, R190). -/
def Sequencer.outputBufferHas (p : Params) (a : Nat) (q : Sequencer) : Bool :=
  match q.mode with
  | .xfer => inBuffer q.rp q.rn.toNat a
  | .ident => inBuffer q.snp (max 16 p.snLen.toNat) a || inBuffer q.macp (max 6 p.macLen.toNat) a
  | .none => false

/-- The instance exists: they are numbered from 0 to `NINST` − 1 (rules R6, R225; log entry 2). -/
def State.hasInstance (s : State) (n : Nat) : Bool := decide (n < s.cfg.ninst)

/-- The agent is not the one an access comes from; `none` is an agent that is no sequencer. -/
def isOther (by_ : Option Nat) (n : Nat) : Bool := by_ != some n

/-- The byte is one of the buffers of this sequencer's own request that another agent wrote since the request was accepted (rule
R77; log entry 24). -/
def State.racedFor (s : State) (by_ : Option Nat) (a : Nat) : Bool :=
  match by_ with
  | none => false
  | some n => s.raced.contains (n, a)

/-- A write of the byte is part of a race: the byte is in a buffer of another agent's request, or another agent wrote it during
this sequencer's own (rule R77, decision D21). -/
def State.writeRaces (s : State) (by_ : Option Nat) (a : Nat) : Bool :=
  s.racedFor by_ a || s.seqs.any (fun p => isOther by_ p.1 && ((s.seq p.1).writeBufferHas a || (s.seq p.1).outputBufferHas s.cfg a))

/-- A read of the byte is part of a race: the byte is in a read buffer or an output of another agent's request, or another agent
wrote it during this sequencer's own, so that `MemRead` may return either value (rule R77, decision D21). -/
def State.readRaces (s : State) (by_ : Option Nat) (a : Nat) : Bool :=
  s.racedFor by_ a || s.seqs.any (fun p => isOther by_ p.1 && (s.seq p.1).outputBufferHas s.cfg a)

/-- The instances whose request in progress has the byte in a buffer, but for the one that accesses it (rule R77). -/
def State.holders (s : State) (by_ : Option Nat) (a : Nat) : List Nat :=
  (s.seqs.map Prod.fst).filter (fun m =>
    isOther by_ m && ((s.seq m).writeBufferHas a || (s.seq m).outputBufferHas s.cfg a))

/-- The byte is raced for each of these requests from now on (rule R77; log entry 24). -/
def State.markRaced (s : State) (by_ : Option Nat) (a : Nat) : State :=
  { s with
    raced := ((s.holders by_ a).filter (fun m => !s.raced.contains (m, a))).map (fun m => (m, a)) ++ s.raced }

/-- No byte is raced for a new request of instance `n` (rule R77; log entry 24). -/
def State.forgetRaced (s : State) (n : Nat) : State := { s with raced := s.raced.filter (fun p => p.1 != n) }

/-- The byte an agent reads; in a race it is any value (rule R77, decision D21; log entry 11). -/
def State.load (s : State) (by_ : Option Nat) (a : Nat) : Byte × State :=
  if s.readRaces by_ a then (Config.freeByte s.draws, s.drawn) else (s.byteAt a, s)

/-- An agent writes a byte; a race leaves any value there (rule R77, decision D21; log entry 11), and the requests that hold the
byte in a buffer remember it (log entry 24): what memory keeps and what their `MemRead` then returns need not agree. -/
def State.store (s : State) (by_ : Option Nat) (a : Nat) (b : Byte) : State :=
  if s.writeRaces by_ a then (s.drawn.setByte a (Config.freeByte s.draws)).markRaced by_ a else s.setByte a b

/-- `MemRead(a, 1)` by instance `n`; `none` where the access is refused (rules R11, R39, R65). -/
def memRead (n : Nat) (a : Nat) (s : State) : Option (Byte × State) :=
  if s.admits .read a then
    some ((s.load (some n) a).1, (s.load (some n) a).2.logMem n .read a (s.load (some n) a).1)
  else none

/-- `MemWrite(a, 1, b)` by instance `n`; `none` where the access is refused (rules R11, R39, R65). A byte that another agent wrote
earlier in the request holds any value also after it (decision D21; log entry 24). -/
def memWrite (n : Nat) (a : Nat) (b : Byte) (s : State) : Option State :=
  if s.admits .write a then some ((s.store (some n) a b).logMem n .write a b) else none

/-- A refused access has no step: the sequencer stays where it is and nothing changes (rule R65; log entry 9). -/
def stuck (s : State) : Result := .next s

/-- The handle of the controller a port operation acts on: the performer's `S.CTLID`, or the handle driven (rule R110). -/
def State.handleOf (s : State) : Who → Handle
  | .inst n => (s.seq n).ctlid
  | .driver h => h

/-- `SetSlaveAddress(a, r)` (rule R111). -/
def portSetSlaveAddress (w : Who) (a : SlaveAddr) (r : Dir) (s : State) : Result :=
  if (s.ctl (s.handleOf w)).busy then .fault .portBusy
  else .next ((s.setCtl (s.handleOf w) ((s.ctl (s.handleOf w)).address a r)).logPort w (.setSlaveAddress a r))

/-- `PutData(b)` (rule R112). -/
def portPutData (w : Who) (b : Byte) (s : State) : Result :=
  if (s.ctl (s.handleOf w)).busy then .fault .portBusy
  else .next ((s.setCtl (s.handleOf w) ((s.ctl (s.handleOf w)).load b)).logPort w (.putData b))

/-- `GetData()` and the byte it returns (rule R113). -/
def portGetData (w : Who) (s : State) : Byte × State :=
  match (s.ctl (s.handleOf w)).shownData with
  | some b => (b, s.logPort w (.getData b))
  | none => (Config.freeByte s.draws, s.drawn.logPort w (.getData (Config.freeByte s.draws)))

/-- `IssueCommand(c)` (rules R114, R128, R129). -/
def portIssueCommand (w : Who) (c : Cmd) (s : State) : Result :=
  if (s.ctl (s.handleOf w)).busy then .fault .portBusy
  else if c.dir ≠ (s.ctl (s.handleOf w)).rw then .fault .dirMismatch
  else .next ((s.setCtl (s.handleOf w) ((s.ctl (s.handleOf w)).issue c)).logPort w (.issueCommand c))

/-- `IsBusy()` and the bit it returns (rule R125). -/
def portIsBusy (w : Who) (s : State) : Bool × State :=
  ((s.ctl (s.handleOf w)).busy, s.logPort w (.isBusy (s.ctl (s.handleOf w)).busy))

/-- `GetError()` and the status it returns (rule R126). -/
def portGetError (w : Who) (s : State) : BusErr × State :=
  match (s.ctl (s.handleOf w)).shownErr with
  | some e => (e, s.logPort w (.getError e))
  | none => (Config.freeErr s.draws, s.drawn.logPort w (.getError (Config.freeErr s.draws)))

/-- The controller at `h` completes its command with the draws `e` and `d`; with none in flight the step is not enabled
and nothing changes (rule R124). -/
def completeCommand (h : Handle) (e : BusErr) (d : Byte) (s : State) : State :=
  match (s.ctl h).infl with
  | none => s
  | some c =>
    { s.setCtl h ((s.ctl h).complete c e d) with
      h := s.h ++ [.complete h c e (if c.receives then some d else none)] }

/-- TAKING AN ABORT, `fail(cause)`: `S.CAUSE` is saved and the sequencer goes to `DONE_FAIL`; nothing else changes (rules
R147, R210, R218). -/
def fail (n : Nat) (c : Cause) (s : State) : State := s.setSeq n { s.seq n with cause := c, st := .doneFail }

/-- THE RETURN to `IDLE`: the request completes with its result, `S.MODE` is `NONE`, and the host sees `Done` (rules R37,
R147, R148, R199, R219). -/
def completeRequest (n : Nat) (result : Bool) (s : State) : State :=
  (s.setSeq n { s.seq n with result := some result, mode := .none, st := .idle }).logDone n result

/-- A request of this instance is in progress on handle `h`. -/
def Sequencer.activeOn (h : Handle) (q : Sequencer) : Bool := q.bound && q.ctlid == h && q.st != .idle

/-- Another instance bound to the handle of instance `n` is not `IDLE` (rules R142, R225). Only listed instances can be. -/
def State.sharedActive (s : State) (n : Nat) : Bool :=
  s.seqs.any (fun p => p.1 != n && (s.seq p.1).activeOn (s.seq n).ctlid)

/-- Acceptance of `TRANSFER` and `READ_IDENTITY` by instance `n`: the checks in the order of rule R217, then the latch. No
byte of the new request's buffers has been raced yet (log entry 24). -/
def accept (n : Nat) (latch : Sequencer → Sequencer) (s : State) : Result :=
  if (s.seq n).st ≠ .idle then .fault .overlap
  else if (s.seq n).bound = false then .fault .notBound
  else if s.sharedActive n then .fault .sharedController
  else .next ((s.setSeq n (latch (s.seq n))).forgetRaced n)

/-- Reset, also in the middle of a request: every instance as rule R240 says, the histories empty (rule R242, decision D17), the
drawn controllers as drawn, the others and the memory as they were (rule R243). The record `obs`, which is the model's own and no
history of the spec, stays (log entry 18). -/
def resetAll (ds : List CtlDraw) (s : State) : State :=
  ds.foldl (fun t d => t.setCtl d.handle d.controller) { s with seqs := [], h := [], mh := [], hh := [], raced := [] }

end Sys2Proof.Machine
end

