-- ==== Sys2Proof/Machine/Port.lean ====
section
/-! DEFINITION. The meanings of the fourteen port operations, performed by `portBy` (rules R110 to R126). A result goes into
the event of the port history (rule R38). -/

namespace Sys2Proof.Machine

/-- `SSA a, r` (rule R111). -/
def execSsa (a : SlaveAddr) (r : Dir) (s : State) : Result := portSetSlaveAddress s.portBy a r s

/-- `PUT b` (rule R112). -/
def execPut (b : Byte) (s : State) : Result := portPutData s.portBy b s

/-- `GET` (rule R113). -/
def execGet (s : State) : Result := .next (portGetData s.portBy s).2

/-- `CMD SINGLE_SEND` (rules R114, R115). -/
def execCmdSingleSend (s : State) : Result := portIssueCommand s.portBy .singleSend s

/-- `CMD BURST_SEND_START` (rules R114, R116). -/
def execCmdBurstSendStart (s : State) : Result := portIssueCommand s.portBy .burstSendStart s

/-- `CMD BURST_SEND_CONTINUE` (rules R114, R117). -/
def execCmdBurstSendContinue (s : State) : Result := portIssueCommand s.portBy .burstSendContinue s

/-- `CMD BURST_SEND_FINISH` (rules R114, R118). -/
def execCmdBurstSendFinish (s : State) : Result := portIssueCommand s.portBy .burstSendFinish s

/-- `CMD BURST_RECEIVE_START` (rules R114, R119). -/
def execCmdBurstReceiveStart (s : State) : Result := portIssueCommand s.portBy .burstReceiveStart s

/-- `CMD BURST_RECEIVE_CONTINUE` (rules R114, R120). -/
def execCmdBurstReceiveContinue (s : State) : Result := portIssueCommand s.portBy .burstReceiveContinue s

/-- `CMD BURST_RECEIVE_FINISH` (rules R114, R121). -/
def execCmdBurstReceiveFinish (s : State) : Result := portIssueCommand s.portBy .burstReceiveFinish s

/-- `CMD BURST_RECEIVE_STOP` (rules R114, R122). -/
def execCmdBurstReceiveStop (s : State) : Result := portIssueCommand s.portBy .burstReceiveStop s

/-- `CMD SINGLE_RECEIVE_NACK` (rules R114, R123). -/
def execCmdSingleReceiveNack (s : State) : Result := portIssueCommand s.portBy .singleReceiveNack s

/-- `IS_BUSY` (rule R125). -/
def execIsBusy (s : State) : Result := .next (portIsBusy s.portBy s).2

/-- `GET_ERROR` (rule R126). -/
def execGetError (s : State) : Result := .next (portGetError s.portBy s).2

end Sys2Proof.Machine
end

