-- ==== Sys2Proof/Machine/Requests.lean ====
section
/-! DEFINITION. The meanings of the three requests, each the step in which the selected instance accepts it (rule R37); what an
accepted request then does is the sequencer's FSM. -/

namespace Sys2Proof.Machine

/-- `INIT cid` (rule R203). -/
def execInit (cid : Handle) (s : State) : Result :=
  if (s.seq s.selInst).st ≠ .idle then .fault .overlap
  else
    .next ((s.setSeq s.selInst { s.seq s.selInst with ctlid := cid, bound := true, result := some true }).logDone
      s.selInst true)

/-- The transaction latch of a `TRANSFER` (rules R27, R28, R142). -/
def latchTransfer (sa : SlaveAddr) (wp wn rp rn : Word) (q : Sequencer) : Sequencer :=
  { q with sa := sa, wp := wp, wn := wn, rp := rp, rn := rn, wsrc := .mem, mode := .xfer, st := .check }

/-- `XFER sa, wp, wn, rp, rn` (rules R140, R142). -/
def execXfer (sa : SlaveAddr) (wp wn rp rn : Word) (s : State) : Result :=
  accept s.selInst (latchTransfer sa wp wn rp rn) s

/-- The latch of a `READ_IDENTITY` (rules R40, R192). -/
def latchIdentity (snp macp : Word) (q : Sequencer) : Sequencer :=
  { q with snp := snp, macp := macp, mode := .ident, j := 0, st := .idFill }

/-- `RDID snp, macp` (rules R190, R192). -/
def execRdid (snp macp : Word) (s : State) : Result := accept s.selInst (latchIdentity snp macp) s

end Sys2Proof.Machine
end

