-- ==== Sys2Proof/Machine/Dispatch.lean ====
section
/-! DEFINITION. One arm per instruction. -/

namespace Sys2Proof.Machine

def exec (i : Instr) (s : State) : Host.Outcome State Fault Refusal :=
  match i with
  | .init cid => Sys2Proof.Machine.execInit cid s
  | .xfer sa wp wn rp rn => Sys2Proof.Machine.execXfer sa wp wn rp rn s
  | .rdid snp macp => Sys2Proof.Machine.execRdid snp macp s
  | .ssa a r => Sys2Proof.Machine.execSsa a r s
  | .put b => Sys2Proof.Machine.execPut b s
  | .get => Sys2Proof.Machine.execGet s
  | .cmdSingleSend => Sys2Proof.Machine.execCmdSingleSend s
  | .cmdBurstSendStart => Sys2Proof.Machine.execCmdBurstSendStart s
  | .cmdBurstSendContinue => Sys2Proof.Machine.execCmdBurstSendContinue s
  | .cmdBurstSendFinish => Sys2Proof.Machine.execCmdBurstSendFinish s
  | .cmdBurstReceiveStart => Sys2Proof.Machine.execCmdBurstReceiveStart s
  | .cmdBurstReceiveContinue => Sys2Proof.Machine.execCmdBurstReceiveContinue s
  | .cmdBurstReceiveFinish => Sys2Proof.Machine.execCmdBurstReceiveFinish s
  | .cmdBurstReceiveStop => Sys2Proof.Machine.execCmdBurstReceiveStop s
  | .cmdSingleReceiveNack => Sys2Proof.Machine.execCmdSingleReceiveNack s
  | .isBusy => Sys2Proof.Machine.execIsBusy s
  | .getError => Sys2Proof.Machine.execGetError s

end Sys2Proof.Machine
end

