-- ==== Sys2Proof/Machine/Operands.lean ====
section
/-! DEFINITION. The operand forms: where a write byte comes from, the address of a buffer byte, and what the agents
outside read and write (rules R28, R63, R66, R77, R87). -/

namespace Sys2Proof.Machine

/-- The address of buffer byte `i`: an exact sum, which does not wrap (rule R66). -/
def bufferAddr (base : Word) (i : Nat) : Nat := base.toNat + i

/-- The index of the last byte of a phase of `n` bytes, `n − 1` (rules R29, R164, R185; log entry 21). -/
def lastIndex (n : Word) : Nat := n.toNat - 1

/-- `WByte(i)`: the write byte with index `i`, from `S.WK` or from memory; `none` where memory refuses it (rule R28). -/
def writeByte (n : Nat) (i : Nat) (s : State) : Option (Byte × State) :=
  match (s.seq n).wsrc with
  | .const => some ((s.seq n).wk, s)
  | .mem => memRead n (bufferAddr (s.seq n).wp i) s

/-- Another agent writes a byte (rule R77). That the launch admission does not govern it is the model's choice (DESIGN CHOICE,
log entry 22): rule R65 speaks of the sequencer's accesses. -/
def agentWrite (a : Word) (b : Byte) (s : State) : State := s.store none a.toNat b

/-- Another agent reads a byte (rule R77; log entry 18), admitted or not (DESIGN CHOICE, log entry 22). -/
def agentRead (a : Word) (s : State) : State :=
  { (s.load none a.toNat).2 with obs := s.obs ++ [.byte a (s.load none a.toNat).1] }

/-- The host reads `S.RESULT`, presented as the result word (rules R37, R87). While it is ⊥, which is the value that rule R240
gives it at reset, the spec has this read fault with `ReadUnset` (the table of faults of rule R216; rule R240; vector F5). -/
def readResult (n : Nat) (s : State) : Result :=
  match (s.seq n).result with
  | none => .fault .readUnset
  | some b => .next { s with obs := s.obs ++ [.result n (resultWord b)] }

end Sys2Proof.Machine
end

