-- ==== Sys2Proof/Machine/Steps.lean ====
section
/-! DEFINITION. The shapes of an FSM step, each shared by the states that have it: address, load, command, busy-wait, error
check, pull (rules R145, R146 and the common text of R149 to R188). -/

namespace Sys2Proof.Machine

/-- A `*_SA` state: `Port.SetSlaveAddress(S.SA, r); st <- next`. -/
def saStep (n : Nat) (r : Dir) (next : St) (s : State) : Result :=
  (portSetSlaveAddress (.inst n) (s.seq n).sa r s).andThen (fun t => .next (t.goto n next))

/-- A `*_PUT` state: `b <- WByte(i); Port.PutData(b); st <- next`, atomic: where memory refuses the byte nothing happens. -/
def putStep (n : Nat) (i : Nat) (next : St) (s : State) : Result :=
  match writeByte n i s with
  | none => stuck s
  | some (b, t) => (portPutData (.inst n) b t).andThen (fun u => .next (u.goto n next))

/-- A `*_CMD` state: `Port.IssueCommand(c); S.TC <- 0; st <- next`. -/
def cmdStep (n : Nat) (c : Cmd) (next : St) (s : State) : Result :=
  (portIssueCommand (.inst n) c s).andThen (fun t => .next (t.setSeq n { t.seq n with tc := 0, st := next }))

/-- `S.TC <- S.TC + 1` (rule R127; log entry 12 where the sum leaves 32 bits). -/
def countPoll (n : Nat) (s : State) : State :=
  match countUp (s.seq n).tc with
  | some v => s.setSeq n { s.seq n with tc := v }
  | none => s.drawn.setSeq n { s.seq n with tc := Config.freeCount s.draws }

/-- A `*_POLL` state (rules R127, R145): on idle the sequencer leaves as `leave` says, on busy it stays, or aborts under
the timeout deviation. -/
def pollStep (n : Nat) (leave : Sequencer → Sequencer) (s : State) : Result :=
  let p := portIsBusy (.inst n) s
  if p.1 = false then .next (p.2.setSeq n (leave (p.2.seq n)))
  else if timedOut s.cfg.busyTimeout (s.seq n).tc then .next (fail n .timeout p.2)
  else .next (countPoll n p.2)

/-- An `*_ERR` state (rule R146). -/
def errStep (n : Nat) (leave : Sequencer → Sequencer) (s : State) : Result :=
  let p := portGetError (.inst n) s
  match p.1 with
  | .error => .next (fail n .busError p.2)
  | .none => .next (p.2.setSeq n (leave (p.2.seq n)))

/-- A `*_GET` state: `b <- Port.GetData(); MemWrite(S.RP + i, 1, b)`, then as `leave` says; atomic: where memory refuses
the byte nothing happens, and `H` gains no event (rule R65, vector M3). -/
def getStep (n : Nat) (i : Nat) (leave : Sequencer → Sequencer) (s : State) : Result :=
  let p := portGetData (.inst n) s
  match memWrite n (bufferAddr (s.seq n).rp i) p.1 p.2 with
  | none => stuck s
  | some t => .next (t.setSeq n (leave (t.seq n)))

/-- One sentinel write of the Identity Reader (rules R69, R193, R196, R198). -/
def sentinelStep (n : Nat) (a : Nat) (leave : Sequencer → Sequencer) (s : State) : Result :=
  match memWrite n a s.cfg.sentinel s with
  | none => stuck s
  | some t => .next (t.setSeq n (leave (t.seq n)))

/-- `S.I <- 1` after the first byte of a burst of `count` bytes, then the middle or the last byte (rules R157, R177). -/
def afterFirst (count : Word) (middle last : St) (q : Sequencer) : Sequencer :=
  { q with i := 1, st := if count.toNat ≥ 3 then middle else last }

/-- `S.I <- S.I + 1` after a middle byte, then `S.I ≤ count − 2` decides (rules R162, R181; 90_conflicts.md C12). -/
def afterMiddle (count : Word) (middle last : St) (q : Sequencer) : Sequencer :=
  { q with
    i := BitVec.ofNat 32 (q.i.toNat + 1)
    st := if q.i.toNat + 1 + 2 ≤ count.toNat then middle else last }

/-- The step's successor, nothing else written. -/
def leaveTo (st : St) (q : Sequencer) : Sequencer := { q with st := st }

end Sys2Proof.Machine
end

