-- ==== Sys2Proof/Machine/Identity.lean ====
section
/-! DEFINITION. The Identity Reader's states (rules R193 to R199), and how a transfer inside it returns (rule R195). -/

namespace Sys2Proof.Machine

/-- `S.J <- S.J + 1`, or the successor after the last byte (rules R193, R196, R198). -/
def afterSentinel (last : Nat) (next : St) (q : Sequencer) : Sequencer :=
  if q.j.toNat = last then { q with st := next } else { q with j := q.j + 1 }

/-- R193: the 16 serial bytes, then the 6 MAC bytes -/
def fsmIdFill (n : Nat) (s : State) : Result :=
  sentinelStep n
    (if (s.seq n).j.toNat < 16 then bufferAddr (s.seq n).snp (s.seq n).j.toNat
     else bufferAddr (s.seq n).macp ((s.seq n).j.toNat - 16))
    (afterSentinel 21 .idSn) s

/-- R194 -/
def fsmIdSn (n : Nat) (s : State) : Result :=
  .next (s.setSeq n
    { s.seq n with
      idstg := .sn, sa := s.cfg.idSlaveAddr, wsrc := .const, wk := s.cfg.snWordAddr, wn := 1,
      rp := (s.seq n).snp, rn := s.cfg.snLen, st := .check })

/-- R195: after `DONE_OK` or `DONE_FAIL` has written `S.XOK` -/
def identityContinue (p : Params) (q : Sequencer) : Sequencer :=
  match q.idstg with
  | .sn => if q.xok = false ∧ p.refillOnFailure then { q with j := 0, st := .idRefillSn } else { q with st := .idMac }
  | .mac => if q.xok = false ∧ p.refillOnFailure then { q with j := 0, st := .idRefillMac } else { q with st := .idEnd }

/-- R196 -/
def fsmIdRefillSn (n : Nat) (s : State) : Result :=
  sentinelStep n (bufferAddr (s.seq n).snp (s.seq n).j.toNat) (afterSentinel 15 .idMac) s

/-- R197 -/
def fsmIdMac (n : Nat) (s : State) : Result :=
  .next (s.setSeq n
    { s.seq n with
      idstg := .mac, sa := s.cfg.macSlaveAddr, wsrc := .const, wk := s.cfg.macWordAddr, wn := 1,
      rp := (s.seq n).macp, rn := s.cfg.macLen, st := .check })

/-- R198 -/
def fsmIdRefillMac (n : Nat) (s : State) : Result :=
  sentinelStep n (bufferAddr (s.seq n).macp (s.seq n).j.toNat) (afterSentinel 5 .idEnd) s

/-- R199: the result is the MAC transfer's -/
def fsmIdEnd (n : Nat) (s : State) : Result := .next (completeRequest n (s.seq n).xok s)

end Sys2Proof.Machine
end

