-- ==== Sys2Proof/Machine/ReadPhase.lean ====
section
/-! DEFINITION. The read phase, one definition per state (rules R168 to R188). -/

namespace Sys2Proof.Machine

/-- R168 -/
def fsmRphase (n : Nat) (s : State) : Result :=
  .next (s.goto n (if (s.seq n).rn.toNat = 1 then .r1Sa else if (s.seq n).rn.toNat ≥ 2 then .rsSa else .doneOk))

/-- R169 -/
def fsmR1Sa (n : Nat) (s : State) : Result := saStep n .read .r1Cmd s

/-- R170 -/
def fsmR1Cmd (n : Nat) (s : State) : Result := cmdStep n .singleReceiveNack .r1Poll s

/-- R171 -/
def fsmR1Poll (n : Nat) (s : State) : Result := pollStep n (leaveTo .r1Err) s

/-- R172: the check comes before the byte is pulled -/
def fsmR1Err (n : Nat) (s : State) : Result := errStep n (leaveTo .r1Get) s

/-- R173 -/
def fsmR1Get (n : Nat) (s : State) : Result := getStep n 0 (leaveTo .doneOk) s

/-- R174 -/
def fsmRsSa (n : Nat) (s : State) : Result := saStep n .read .rsCmd s

/-- R175 -/
def fsmRsCmd (n : Nat) (s : State) : Result := cmdStep n .burstReceiveStart .rsPoll s

/-- R176 -/
def fsmRsPoll (n : Nat) (s : State) : Result := pollStep n (leaveTo .rsGet) s

/-- R177: unchecked -/
def fsmRsGet (n : Nat) (s : State) : Result := getStep n 0 (fun q => afterFirst q.rn .rmSa .rfSa q) s

/-- R178 -/
def fsmRmSa (n : Nat) (s : State) : Result := saStep n .read .rmCmd s

/-- R179 -/
def fsmRmCmd (n : Nat) (s : State) : Result := cmdStep n .burstReceiveContinue .rmPoll s

/-- R180 -/
def fsmRmPoll (n : Nat) (s : State) : Result := pollStep n (leaveTo .rmGet) s

/-- R181: unchecked -/
def fsmRmGet (n : Nat) (s : State) : Result :=
  getStep n (s.seq n).i.toNat (fun q => afterMiddle q.rn .rmSa .rfSa q) s

/-- R182 -/
def fsmRfSa (n : Nat) (s : State) : Result := saStep n .read .rfCmd s

/-- R183 -/
def fsmRfCmd (n : Nat) (s : State) : Result := cmdStep n .burstReceiveFinish .rfPoll s

/-- R184 -/
def fsmRfPoll (n : Nat) (s : State) : Result := pollStep n (leaveTo .rfGet) s

/-- R185: unchecked -/
def fsmRfGet (n : Nat) (s : State) : Result := getStep n (lastIndex (s.seq n).rn) (leaveTo .rpCmd) s

/-- R186: no address-set before it (decision D9) -/
def fsmRpCmd (n : Nat) (s : State) : Result := cmdStep n .burstReceiveStop .rpPoll s

/-- R187 -/
def fsmRpPoll (n : Nat) (s : State) : Result := pollStep n (leaveTo .rpErr) s

/-- R188 -/
def fsmRpErr (n : Nat) (s : State) : Result := errStep n (leaveTo .doneOk) s

end Sys2Proof.Machine
end

