-- ==== Sys2Proof/Machine/Transfer.lean ====
section
/-! DEFINITION. Dispatch and completion of a transfer (rules R143, R147, R148). -/

namespace Sys2Proof.Machine

/-- R143 -/
def fsmCheck (n : Nat) (s : State) : Result :=
  let q := s.seq n
  if q.wn.toNat = 0 ∧ q.rn.toNat = 0 then .next (fail n .malformed s)
  else if q.wn.toNat = 1 then .next (s.goto n .w1Sa)
  else if q.wn.toNat ≥ 2 then .next (s.goto n .wsSa)
  else .next (s.goto n .rphase)

/-- The end of a transfer whose outcome the registers `q` hold: the host's request completes, or the Identity Reader goes on
(rules R147, R148, R195). -/
def endTransfer (n : Nat) (q : Sequencer) (s : State) : Result :=
  if q.mode = .xfer then .next (completeRequest n q.xok (s.setSeq n q))
  else .next (s.setSeq n (identityContinue s.cfg q))

/-- R148 -/
def fsmDoneOk (n : Nat) (s : State) : Result := endTransfer n (s.seq n).succeeded s

/-- R147 -/
def fsmDoneFail (n : Nat) (s : State) : Result := endTransfer n (s.seq n).failed s

end Sys2Proof.Machine
end

