-- ==== Sys2Proof/Machine/WritePhase.lean ====
section
/-! DEFINITION. The write phase, one definition per state (rules R149 to R167). -/

namespace Sys2Proof.Machine

/-- The successor of a finished write phase (rules R153, R167). -/
def afterWrite (q : Sequencer) : Sequencer := { q with st := if q.rn = 0 then .doneOk else .rphase }

/-- R149 -/
def fsmW1Sa (n : Nat) (s : State) : Result := saStep n .write .w1Put s

/-- R150 -/
def fsmW1Put (n : Nat) (s : State) : Result := putStep n 0 .w1Cmd s

/-- R151 -/
def fsmW1Cmd (n : Nat) (s : State) : Result := cmdStep n .singleSend .w1Poll s

/-- R152 -/
def fsmW1Poll (n : Nat) (s : State) : Result := pollStep n (leaveTo .w1Err) s

/-- R153 -/
def fsmW1Err (n : Nat) (s : State) : Result := errStep n afterWrite s

/-- R154 -/
def fsmWsSa (n : Nat) (s : State) : Result := saStep n .write .wsPut s

/-- R155 -/
def fsmWsPut (n : Nat) (s : State) : Result := putStep n 0 .wsCmd s

/-- R156 -/
def fsmWsCmd (n : Nat) (s : State) : Result := cmdStep n .burstSendStart .wsPoll s

/-- R157: no error check follows -/
def fsmWsPoll (n : Nat) (s : State) : Result := pollStep n (fun q => afterFirst q.wn .wmSa .wfSa q) s

/-- R158 -/
def fsmWmSa (n : Nat) (s : State) : Result := saStep n .write .wmPut s

/-- R159 -/
def fsmWmPut (n : Nat) (s : State) : Result := putStep n (s.seq n).i.toNat .wmCmd s

/-- R160 -/
def fsmWmCmd (n : Nat) (s : State) : Result := cmdStep n .burstSendContinue .wmPoll s

/-- R161 -/
def fsmWmPoll (n : Nat) (s : State) : Result := pollStep n (leaveTo .wmErr) s

/-- R162 -/
def fsmWmErr (n : Nat) (s : State) : Result := errStep n (fun q => afterMiddle q.wn .wmSa .wfSa q) s

/-- R163 -/
def fsmWfSa (n : Nat) (s : State) : Result := saStep n .write .wfPut s

/-- R164 -/
def fsmWfPut (n : Nat) (s : State) : Result := putStep n (lastIndex (s.seq n).wn) .wfCmd s

/-- R165 -/
def fsmWfCmd (n : Nat) (s : State) : Result := cmdStep n .burstSendFinish .wfPoll s

/-- R166 -/
def fsmWfPoll (n : Nat) (s : State) : Result := pollStep n (leaveTo .wfErr) s

/-- R167 -/
def fsmWfErr (n : Nat) (s : State) : Result := errStep n afterWrite s

end Sys2Proof.Machine
end

