-- ==== Sys2Proof/Machine/Fsm.lean ====
section
/-! DEFINITION. The sequencer's step: `S.ST` names the one step it takes next (rule R22). -/

namespace Sys2Proof.Machine

/-- The step of instance `n`. In `IDLE` it takes none (rule R22). -/
def seqStep (n : Nat) (s : State) : Result :=
  match (s.seq n).st with
  | .idle => .next s
  | .check => fsmCheck n s
  | .rphase => fsmRphase n s
  | .w1Sa => fsmW1Sa n s
  | .w1Put => fsmW1Put n s
  | .w1Cmd => fsmW1Cmd n s
  | .w1Poll => fsmW1Poll n s
  | .w1Err => fsmW1Err n s
  | .wsSa => fsmWsSa n s
  | .wsPut => fsmWsPut n s
  | .wsCmd => fsmWsCmd n s
  | .wsPoll => fsmWsPoll n s
  | .wmSa => fsmWmSa n s
  | .wmPut => fsmWmPut n s
  | .wmCmd => fsmWmCmd n s
  | .wmPoll => fsmWmPoll n s
  | .wmErr => fsmWmErr n s
  | .wfSa => fsmWfSa n s
  | .wfPut => fsmWfPut n s
  | .wfCmd => fsmWfCmd n s
  | .wfPoll => fsmWfPoll n s
  | .wfErr => fsmWfErr n s
  | .r1Sa => fsmR1Sa n s
  | .r1Cmd => fsmR1Cmd n s
  | .r1Poll => fsmR1Poll n s
  | .r1Err => fsmR1Err n s
  | .r1Get => fsmR1Get n s
  | .rsSa => fsmRsSa n s
  | .rsCmd => fsmRsCmd n s
  | .rsPoll => fsmRsPoll n s
  | .rsGet => fsmRsGet n s
  | .rmSa => fsmRmSa n s
  | .rmCmd => fsmRmCmd n s
  | .rmPoll => fsmRmPoll n s
  | .rmGet => fsmRmGet n s
  | .rfSa => fsmRfSa n s
  | .rfCmd => fsmRfCmd n s
  | .rfPoll => fsmRfPoll n s
  | .rfGet => fsmRfGet n s
  | .rpCmd => fsmRpCmd n s
  | .rpPoll => fsmRpPoll n s
  | .rpErr => fsmRpErr n s
  | .doneOk => fsmDoneOk n s
  | .doneFail => fsmDoneFail n s
  | .idFill => fsmIdFill n s
  | .idSn => fsmIdSn n s
  | .idRefillSn => fsmIdRefillSn n s
  | .idMac => fsmIdMac n s
  | .idRefillMac => fsmIdRefillMac n s
  | .idEnd => fsmIdEnd n s

end Sys2Proof.Machine
end

