-- ==== Sys2Proof/Machine/Agents.lean ====
section
/-! DEFINITION. The agents and their turns (rule R20): which agent moves next, and what its move does. -/

namespace Sys2Proof.Machine

/-- The turn to come: the first one listed, or, where none is listed, any turn (log entry 1). -/
def State.nextTurn (s : State) : Turn :=
  match s.env with
  | [] => Config.freeTurn s.draws
  | t :: _ => t

/-- The state once the turn has been taken off the list. -/
def State.tookTurn (s : State) : State :=
  match s.env with
  | [] => s.drawn
  | _ :: r => { s with env := r }

/-- A host submits the words of one request to instance `n` (rules R37, R86). Where there is no such instance nothing takes the
request, and nothing changes (rule R6, `NINST`; log entry 2). -/
def submitRequest (n : Nat) (words : List Word) (s : State) : Result :=
  match decode (.request words) with
  | .ok i => if s.hasInstance n then exec i { s with selInst := n } else .next s
  | .error .wrongLength => .refused .wrongLength
  | .error _ => .refused .badDescriptor

/-- Something other than the sequencer drives a port word of the controller at `h` (rule R94). -/
def drivePort (h : Handle) (w : PortWord) (s : State) : Result :=
  match decode (.port w) with
  | .ok i => exec i { s with portBy := .driver h }
  | .error _ => .refused .badPortWord

/-- A host reads the result of instance `n`, where there is such an instance (rule R37; log entry 2). DESIGN CHOICE (log entry
23): the read is admitted at any time. Rule R20 has the host take no step toward the sequencer during a request and rule R37 lets
it read at completion; a read during a request gives the result of the request before it. -/
def hostRead (n : Nat) (s : State) : Result := if s.hasInstance n then readResult n s else .next s

/-- One turn. The turn of an instance that does not exist finds it as after reset, in `IDLE`, and changes nothing. -/
def runTurn (t : Turn) (s : State) : Result :=
  match t with
  | .submit n words => submitRequest n words s
  | .readResult n => hostRead n s
  | .seq n => seqStep n s
  | .complete h e d => .next (completeCommand h e d s)
  | .drive h w => drivePort h w s
  | .agentWrite a b => .next (agentWrite a b s)
  | .agentRead a => .next (agentRead a s)
  | .reset ds => .next (resetAll ds s)

/-- The turn that brings the instruction with bits `w` to the machine: a request to the selected instance, a port word to
the controller of `portBy` (log entry 15). -/
def State.fetchTurn (s : State) (nbits w : Nat) : Turn :=
  match tableCode nbits w with
  | .request words => .submit s.selInst words
  | .port word => .drive (s.handleOf s.portBy) word

end Sys2Proof.Machine
end

