-- ==== Sys2Proof/Machine/Step.lean ====
section
/-! DEFINITION. One step of the machine: the next turn, run. -/

namespace Sys2Proof.Machine

/-- The next turn is taken off the list and run. -/
def step (s : State) : Host.Outcome State Fault Refusal := runTurn s.nextTurn s.tookTurn

/-- The instruction with bits `w` as the machine's next turn (log entry 15). -/
def State.withFetchWord (s : State) (nbits w : Nat) : State := { s with env := s.fetchTurn nbits w :: s.env }

end Sys2Proof.Machine
end

