-- ==== Sys2Proof/Machine/Asm.lean ====
section
/-! DEFINITION. The request-level assembler (rules R97 and R98): a line of text to an assembly request, and a request to the
words of its descriptor. Text is a list of characters. -/

namespace Sys2Proof.Machine

/-- Why a line is no request. -/
inductive AsmError where
  | unknownMnemonic
  | badNumber
  | wrongOperandCount
  | outOfRange
deriving DecidableEq, Repr

/-- The pseudo-instructions' expansions (rule R98). -/
def AsmReq.expand : AsmReq → AsmReq
  | .xferw sa wp wn => .xfer sa wp wn 0 0
  | .xferr sa rp rn => .xfer sa 0 0 rp rn
  | .eewr1 sa wp => .xfer sa wp 1 0 0
  | .init cid => .init cid
  | .xfer sa wp wn rp rn => .xfer sa wp wn rp rn
  | .rdid snp macp => .rdid snp macp

/-- The instruction of a line whose operands are in range. -/
def AsmReq.instr : AsmReq → Instr
  | .init cid => .init (BitVec.ofNat 32 cid)
  | .xfer sa wp wn rp rn =>
    .xfer (BitVec.ofNat 7 sa) (BitVec.ofNat 32 wp) (BitVec.ofNat 32 wn) (BitVec.ofNat 32 rp) (BitVec.ofNat 32 rn)
  | .rdid snp macp => .rdid (BitVec.ofNat 32 snp) (BitVec.ofNat 32 macp)
  | .xferw sa wp wn => .xfer (BitVec.ofNat 7 sa) (BitVec.ofNat 32 wp) (BitVec.ofNat 32 wn) 0 0
  | .xferr sa rp rn => .xfer (BitVec.ofNat 7 sa) 0 0 (BitVec.ofNat 32 rp) (BitVec.ofNat 32 rn)
  | .eewr1 sa wp => .xfer (BitVec.ofNat 7 sa) (BitVec.ofNat 32 wp) 1 0 0

/-- The assembler: an operand out of range is an error (rule R97). -/
def AsmReq.assemble (a : AsmReq) : Except AsmError Code :=
  if a.wellFormed then .ok (encode a.instr) else .error .outOfRange

/-- The value of a digit in base 10 or 16. -/
def digitValue (base : Nat) (c : Char) : Option Nat :=
  let v := c.toNat
  let d :=
    if 48 ≤ v ∧ v ≤ 57 then v - 48
    else if 65 ≤ v ∧ v ≤ 70 then v - 55
    else if 97 ≤ v ∧ v ≤ 102 then v - 87
    else 16
  if d < base then some d else none

/-- The digits of a number, most significant first, after the digits `acc`. -/
def parseDigits (base acc : Nat) : List Char → Option Nat
  | [] => some acc
  | c :: t =>
    match digitValue base c with
    | none => none
    | some d => parseDigits base (acc * base + d) t

/-- A number in C syntax, `0x..` or decimal (rule R97); a decimal number of several digits that begins with 0 is refused
(log entry 20). -/
def parseNumber : List Char → Option Nat
  | [] => none
  | ['0'] => some 0
  | '0' :: 'x' :: c :: t => parseDigits 16 0 (c :: t)
  | '0' :: 'X' :: c :: t => parseDigits 16 0 (c :: t)
  | '0' :: _ :: _ => none
  | c :: t => parseDigits 10 0 (c :: t)

/-- A blank: space, tab or carriage return. -/
def isBlank (c : Char) : Bool := c == ' ' || c == '\t' || c == '\r'

/-- The text before a comment (rule R97: comments start with a semicolon). -/
def dropComment : List Char → List Char
  | [] => []
  | c :: t => if c = ';' then [] else c :: dropComment t

/-- The text without leading blanks. -/
def dropBlanks : List Char → List Char
  | [] => []
  | c :: t => if isBlank c then dropBlanks t else c :: t

/-- The text without blanks at either end. -/
def trim (cs : List Char) : List Char := (dropBlanks (dropBlanks cs).reverse).reverse

/-- The mnemonic and the text after it. -/
def splitWord : List Char → List Char × List Char
  | [] => ([], [])
  | c :: t => if isBlank c then ([], t) else (c :: (splitWord t).1, (splitWord t).2)

/-- The operands between commas. -/
def splitCommas : List Char → List (List Char)
  | [] => [[]]
  | c :: t =>
    if c = ',' then [] :: splitCommas t
    else
      match splitCommas t with
      | [] => [[c]]
      | w :: ws => (c :: w) :: ws

/-- The operands of a line. -/
def parseOperands (cs : List Char) : Option (List Nat) :=
  if trim cs = [] then some [] else (splitCommas cs).mapM (fun w => parseNumber (trim w))

/-- A request from its mnemonic and its operands (rules R97, R98). -/
def buildRequest (name : List Char) (ops : List Nat) : Except AsmError AsmReq :=
  if name = ['I', 'N', 'I', 'T'] then
    match ops with
    | [cid] => .ok (.init cid)
    | _ => .error .wrongOperandCount
  else if name = ['X', 'F', 'E', 'R'] then
    match ops with
    | [sa, wp, wn, rp, rn] => .ok (.xfer sa wp wn rp rn)
    | _ => .error .wrongOperandCount
  else if name = ['R', 'D', 'I', 'D'] then
    match ops with
    | [snp, macp] => .ok (.rdid snp macp)
    | _ => .error .wrongOperandCount
  else if name = ['X', 'F', 'E', 'R', 'W'] then
    match ops with
    | [sa, wp, wn] => .ok (.xferw sa wp wn)
    | _ => .error .wrongOperandCount
  else if name = ['X', 'F', 'E', 'R', 'R'] then
    match ops with
    | [sa, rp, rn] => .ok (.xferr sa rp rn)
    | _ => .error .wrongOperandCount
  else if name = ['E', 'E', 'W', 'R', '1'] then
    match ops with
    | [sa, wp] => .ok (.eewr1 sa wp)
    | _ => .error .wrongOperandCount
  else .error .unknownMnemonic

/-- One line: none where it is empty or only a comment (rule R97: one request per line). -/
def parseLine (cs : List Char) : Except AsmError (Option AsmReq) :=
  let text := trim (dropComment cs)
  if text = [] then .ok none
  else
    match parseOperands (splitWord text).2 with
    | none => .error .badNumber
    | some ops =>
      match buildRequest (splitWord text).1 ops with
      | .ok a => .ok (some a)
      | .error e => .error e

/-- The words of one line's descriptor. -/
def assembleLine (cs : List Char) : Except AsmError (Option Code) :=
  match parseLine cs with
  | .error e => .error e
  | .ok none => .ok none
  | .ok (some a) =>
    match a.assemble with
    | .ok c => .ok (some c)
    | .error e => .error e

end Sys2Proof.Machine
end

