-- ==== Sys2Proof/Machine/Reference.lean ====
section
/-! DEFINITION. The source's algorithms as procedures: the reference semantics of a transfer (rule R141) and of an identity
read (rule R191), in the trace form of rule R99, and the eager schedule (95_test_vectors.md §0) under which the FSM is held
to them. The FSM does not use this file. -/

namespace Sys2Proof.Machine

/-- One item of a trace: a port operation, or the pseudo `WAIT` (rule R99). -/
inductive TraceItem where
  | op (o : PortOp)
  | wait
deriving DecidableEq, Repr

/-- The port word of an operation (rules R95, R99). -/
def PortOp.word : PortOp → PortWord
  | .setSlaveAddress a r => ssaWord a r
  | .putData b => portWord 0x2 b
  | .getData _ => portWord 0x3 0
  | .issueCommand c => cmdWord c
  | .isBusy _ => portWord 0x5 0
  | .getError _ => portWord 0x6 0

/-- What is left of the operations after one `WAIT`: zero or more busy polls and one idle poll (rule R99). -/
def dropWait : List PortOp → Option (List PortOp)
  | .isBusy true :: t => dropWait t
  | .isBusy false :: t => some t
  | _ => none

/-- The operations are a run of the trace (rule R99). -/
def matchesTrace : List TraceItem → List PortOp → Bool
  | [], ops => ops.isEmpty
  | .op o :: t, p :: ops => decide (o = p) && matchesTrace t ops
  | .op _ :: _, [] => false
  | .wait :: t, ops =>
    match dropWait ops with
    | none => false
    | some rest => matchesTrace t rest

/-- Under the eager schedule a `WAIT` is exactly one idle poll (rule R99). -/
def TraceItem.eager : TraceItem → PortOp
  | .op o => o
  | .wait => .isBusy false

/-- How a reference run ends: `Success`, `Abort(c)`, or in a busy-wait on a command that is never completed (rule R226). -/
inductive RefEnd where
  | success
  | abort (c : Cause)
  | hang
deriving DecidableEq, Repr

/-- What a reference run does: its trace, the bytes it stores in order, its end, and the completion draws it leaves. -/
structure RefRun where
  trace : List TraceItem
  stored : List (Nat × Byte)
  ending : RefEnd
  rest : List (BusErr × Byte)
deriving DecidableEq, Repr

/-- One part, and after its success the next. -/
def RefRun.andThen (a : RefRun) (f : List (BusErr × Byte) → RefRun) : RefRun :=
  match a.ending with
  | .success => ⟨a.trace ++ (f a.rest).trace, a.stored ++ (f a.rest).stored, (f a.rest).ending, (f a.rest).rest⟩
  | .abort _ => a
  | .hang => a

/-- The end of a checked step that read status `e`. -/
def RefEnd.ofStatus : BusErr → RefEnd
  | .none => .success
  | .error => .abort .busError

/-- A step of the write phase: `SSA(S.SA, W); PUT(b); CMD(c); WAIT`, and the error check where the step is checked. -/
def refSend (checked : Bool) (sa : SlaveAddr) (b : Byte) (c : Cmd) (ds : List (BusErr × Byte)) : RefRun :=
  let head : List TraceItem := [.op (.setSlaveAddress sa .write), .op (.putData b), .op (.issueCommand c)]
  match ds with
  | [] => ⟨head, [], .hang, []⟩
  | (e, _) :: r =>
    if checked then ⟨head ++ [.wait, .op (.getError e)], [], .ofStatus e, r⟩
    else ⟨head ++ [.wait], [], .success, r⟩

/-- The bytes of a burst write after the first: middle bytes, then the last. -/
def refWriteRest (sa : SlaveAddr) : List Byte → List (BusErr × Byte) → RefRun
  | [], ds => ⟨[], [], .success, ds⟩
  | [b], ds => refSend true sa b .burstSendFinish ds
  | b :: c :: bs, ds => (refSend true sa b .burstSendContinue ds).andThen (refWriteRest sa (c :: bs))

/-- The write phase of rule R141, for the write bytes in order. -/
def refWrite (sa : SlaveAddr) : List Byte → List (BusErr × Byte) → RefRun
  | [], ds => ⟨[], [], .success, ds⟩
  | [b], ds => refSend true sa b .singleSend ds
  | b :: c :: bs, ds => (refSend false sa b .burstSendStart ds).andThen (refWriteRest sa (c :: bs))

/-- An unchecked step of a burst read: `SSA(S.SA, R); CMD(c); WAIT; MemWrite(a, 1, GET)`. -/
def refPull (sa : SlaveAddr) (c : Cmd) (a : Nat) (ds : List (BusErr × Byte)) : RefRun :=
  let head : List TraceItem := [.op (.setSlaveAddress sa .read), .op (.issueCommand c)]
  match ds with
  | [] => ⟨head, [], .hang, []⟩
  | (_, d) :: r => ⟨head ++ [.wait, .op (.getData d)], [(a, d)], .success, r⟩

/-- The close of a burst read: `CMD(BURST_RECEIVE_STOP); WAIT`, checked, with no re-address. -/
def refStop (ds : List (BusErr × Byte)) : RefRun :=
  match ds with
  | [] => ⟨[.op (.issueCommand .burstReceiveStop)], [], .hang, []⟩
  | (e, _) :: r => ⟨[.op (.issueCommand .burstReceiveStop), .wait, .op (.getError e)], [], .ofStatus e, r⟩

/-- The bytes of a burst read after the first, `k` of them, to address `a` and on: middle bytes, the last, the stop. -/
def refReadRest (sa : SlaveAddr) : Nat → Nat → List (BusErr × Byte) → RefRun
  | 0, _, ds => ⟨[], [], .success, ds⟩
  | 1, a, ds => (refPull sa .burstReceiveFinish a ds).andThen refStop
  | k + 2, a, ds => (refPull sa .burstReceiveContinue a ds).andThen (refReadRest sa (k + 1) (a + 1))

/-- The one-byte read: checked before the byte is pulled. -/
def refReadOne (sa : SlaveAddr) (a : Nat) (ds : List (BusErr × Byte)) : RefRun :=
  let head : List TraceItem := [.op (.setSlaveAddress sa .read), .op (.issueCommand .singleReceiveNack)]
  match ds with
  | [] => ⟨head, [], .hang, []⟩
  | (.error, _) :: r => ⟨head ++ [.wait, .op (.getError .error)], [], .abort .busError, r⟩
  | (.none, d) :: r => ⟨head ++ [.wait, .op (.getError .none), .op (.getData d)], [(a, d)], .success, r⟩

/-- The read phase of rule R141. -/
def refRead (sa : SlaveAddr) (a : Nat) : Nat → List (BusErr × Byte) → RefRun
  | 0, ds => ⟨[], [], .success, ds⟩
  | 1, ds => refReadOne sa a ds
  | k + 2, ds => (refPull sa .burstReceiveStart a ds).andThen (refReadRest sa (k + 1) (a + 1))

/-- `Transfer()` of rule R141: the write bytes, the read buffer's address and count, and the completion draws in order. -/
def refTransfer (sa : SlaveAddr) (bytes : List Byte) (rp rn : Nat) (ds : List (BusErr × Byte)) : RefRun :=
  if bytes = [] ∧ rn = 0 then ⟨[], [], .abort .malformed, ds⟩
  else (refWrite sa bytes ds).andThen (refRead sa rp rn)

/-- The sentinel in `k` bytes from `a`. -/
def refSentinels (p : Params) (a k : Nat) : List (Nat × Byte) := (List.range k).map (fun j => (a + j, p.sentinel))

/-- The refill of rule R191 after a transfer that ended so. -/
def refRefill (p : Params) (e : RefEnd) (a k : Nat) : List (Nat × Byte) :=
  if e ≠ .success ∧ p.refillOnFailure then refSentinels p a k else []

/-- What `ReadIdentity` does: its trace, its memory writes in order, and its result, none where it hangs. -/
structure RefIdentity where
  trace : List TraceItem
  stored : List (Nat × Byte)
  result : Option Bool
deriving DecidableEq, Repr

/-- `ReadIdentity(snp, macp)` of rule R191: the MAC transfer runs whether or not the serial-number transfer succeeded. -/
def refIdentity (p : Params) (snp macp : Nat) (ds : List (BusErr × Byte)) : RefIdentity :=
  let fill := refSentinels p snp 16 ++ refSentinels p macp 6
  let sn := refTransfer p.idSlaveAddr [p.snWordAddr] snp p.snLen.toNat ds
  if sn.ending = .hang then ⟨sn.trace, fill ++ sn.stored, none⟩
  else
    let mac := refTransfer p.macSlaveAddr [p.macWordAddr] macp p.macLen.toNat sn.rest
    let writes := fill ++ sn.stored ++ refRefill p sn.ending snp 16 ++ mac.stored
    if mac.ending = .hang then ⟨sn.trace ++ mac.trace, writes, none⟩
    else ⟨sn.trace ++ mac.trace, writes ++ refRefill p mac.ending macp 6, some (mac.ending == .success)⟩

/-- The port operations of a history, the controllers' completions left out. -/
def portOps : List PortEvent → List PortOp
  | [] => []
  | .port _ o :: t => o :: portOps t
  | .complete _ _ _ _ :: t => portOps t

/-- The next turn of the eager schedule for instance `n`: the controller completes a command in flight with the next draw,
else the sequencer moves; none where the request is over, or the draws are and a command is never completed. -/
def eagerTurn (n : Nat) (s : State) (ds : List (BusErr × Byte)) : Option (Turn × List (BusErr × Byte)) :=
  if (s.seq n).st = .idle then none
  else if (s.ctl (s.seq n).ctlid).infl.isSome then
    match ds with
    | [] => none
    | (e, d) :: r => some (.complete (s.seq n).ctlid e d, r)
  else some (.seq n, ds)

/-- At most `k` turns of the eager schedule for instance `n`. -/
def eagerRun : Nat → Nat → List (BusErr × Byte) → State → Result
  | 0, _, _, s => .next s
  | k + 1, n, ds, s =>
    match eagerTurn n s ds with
    | none => .next s
    | some (t, r) =>
      match runTurn t s with
      | .next u => eagerRun k n r u
      | .fault e => .fault e
      | .refused e => .refused e

/-- The bytes stored in order. -/
def storeAll (ws : List (Nat × Byte)) (s : State) : State := ws.foldl (fun t w => t.setByte w.1 w.2) s

end Sys2Proof.Machine
end

