-- ==== Sys2Proof/Safety.lean ====
section
/-! DEFINITION. What claims are stated in: the launch premises (rule R245), the invariants (rules R34, R44, R128, R129), runs,
their fairness and progress (rule R252) and their end (rule R253). -/

namespace Sys2Proof.Machine

/-- Premise `bound`. -/
def State.Bound (s : State) (n : Nat) : Prop := (s.seq n).bound = true

/-- Premise `idle`: the instance, and every other instance bound to its handle. -/
def State.Idle (s : State) (n : Nat) : Prop :=
  (s.seq n).st = .idle ∧ (s.seq n).mode = .none ∧ s.sharedActive n = false

/-- Premise `ctl_quiet`, of the controller at a handle. -/
def State.CtlQuiet (s : State) (h : Handle) : Prop := (s.ctl h).busy = false ∧ (s.ctl h).infl = none

/-- Premise `buffers_admitted`, of `len` bytes from `base`. -/
def State.Admitted (s : State) (k : Access) (base len : Nat) : Prop := ∀ i, i < len → s.admits k (base + i) = true

/-- A read of these bytes by instance `n` is part of no race (rule R77): no other instance's request holds one in a read buffer or an
output, and no other agent has written one during the instance's own request. It is what `buffers_owned` gives at one moment. -/
def State.NoReadRace (s : State) (n : Nat) (base len : Nat) : Prop := ∀ i, i < len → s.readRaces (some n) (base + i) = false

/-- A write of these bytes by instance `n` is part of no race (rule R77), likewise. -/
def State.NoWriteRace (s : State) (n : Nat) (base len : Nat) : Prop := ∀ i, i < len → s.writeRaces (some n) (base + i) = false

/-- The tables are in canonical form. -/
def State.tablesWf (s : State) : Bool :=
  Sparse.wf Sequencer.reset s.seqs && Sparse.wf Controller.reset s.ctls && Sparse.wf unlistedByte s.mem

/-- Memory is in canonical form. -/
def Memory.wf (m : List Host.Cell) : Bool := Sparse.wf unlistedByte m

/-- `CTL.BUSY = 1` exactly when a command is in flight (rule R34). -/
def Controller.legal (k : Controller) : Prop := k.busy = k.infl.isSome

/-- The states of the Identity Reader's own (rule R23). -/
def St.isIdentity : St → Bool
  | .idFill | .idSn | .idRefillSn | .idMac | .idRefillMac | .idEnd => true
  | _ => false

/-- What the counts and indices are in each state (rules R29, R30, R44 item 4, R159, R162, R168, R181). -/
def Sequencer.phaseOk (q : Sequencer) : Prop :=
  match q.st with
  | .idle | .check | .doneOk | .doneFail | .idSn | .idMac | .idEnd => True
  | .w1Sa | .w1Put | .w1Cmd | .w1Poll | .w1Err => q.wn.toNat = 1
  | .wsSa | .wsPut | .wsCmd | .wsPoll => 2 ≤ q.wn.toNat
  | .wmSa | .wmPut | .wmCmd | .wmPoll | .wmErr => 1 ≤ q.i.toNat ∧ q.i.toNat + 2 ≤ q.wn.toNat
  | .wfSa | .wfPut | .wfCmd | .wfPoll | .wfErr => 2 ≤ q.wn.toNat
  | .rphase => 1 ≤ q.rn.toNat
  | .r1Sa | .r1Cmd | .r1Poll | .r1Err | .r1Get => q.rn.toNat = 1
  | .rsSa | .rsCmd | .rsPoll | .rsGet => 2 ≤ q.rn.toNat
  | .rmSa | .rmCmd | .rmPoll | .rmGet => 1 ≤ q.i.toNat ∧ q.i.toNat + 2 ≤ q.rn.toNat
  | .rfSa | .rfCmd | .rfPoll | .rfGet | .rpCmd | .rpPoll | .rpErr => 2 ≤ q.rn.toNat
  | .idFill => q.j.toNat ≤ 21
  | .idRefillSn => q.j.toNat ≤ 15
  | .idRefillMac => q.j.toNat ≤ 5

/-- The registers of one instance fit together (rules R24, R26, R28, R44). -/
structure Sequencer.Consistent (q : Sequencer) : Prop where
  /-- `S.MODE = NONE` exactly when `S.ST = IDLE` (rule R44 item 3) -/
  mode_idle : q.mode = .none ↔ q.st = .idle
  /-- a request in progress has a bound handle (rule R26) -/
  active_bound : q.st ≠ .idle → q.bound = true
  /-- the Identity Reader's states belong to its requests (rule R24) -/
  identity_mode : q.st.isIdentity = true → q.mode = .ident
  /-- a host's transfer takes its bytes from memory (rule R28) -/
  xfer_mem : q.mode = .xfer → q.wsrc = .mem
  /-- the Identity Reader's transfers take one constant byte (rule R28) -/
  ident_const : q.mode = .ident → q.st.isIdentity = false → q.wsrc = .const ∧ q.wn = 1
  /-- counts and indices (rule R44 item 4) -/
  phase : q.phaseOk

/-- No two instances are active on one controller (rules R225, R247). -/
def State.Exclusive (s : State) : Prop :=
  ∀ m n h, m ≠ n → ¬((s.seq m).activeOn h = true ∧ (s.seq n).activeOn h = true)

/-- The invariant that every turn keeps. -/
structure State.Inv (s : State) : Prop where
  tables : s.tablesWf = true
  consistent : ∀ n, (s.seq n).Consistent
  legal : ∀ h, (s.ctl h).legal
  exclusive : s.Exclusive
  /-- an instance that does not exist is as after reset (rule R6, `NINST`; log entry 2) -/
  absent : ∀ n, s.cfg.ninst ≤ n → s.seq n = Sequencer.reset

/-- The direction the controller is addressed in, in the states that rely on it (rule R129). -/
def St.direction : St → Option Dir
  | .w1Put | .w1Cmd | .wsPut | .wsCmd | .wmPut | .wmCmd | .wfPut | .wfCmd => some .write
  | .r1Cmd | .rsCmd | .rmCmd | .rfCmd | .rfPoll | .rfGet | .rpCmd => some .read
  | _ => none

/-- The command a busy-wait state waits for (rule R144). -/
def St.pollCmd : St → Option Cmd
  | .w1Poll => some .singleSend
  | .wsPoll => some .burstSendStart
  | .wmPoll => some .burstSendContinue
  | .wfPoll => some .burstSendFinish
  | .r1Poll => some .singleReceiveNack
  | .rsPoll => some .burstReceiveStart
  | .rmPoll => some .burstReceiveContinue
  | .rfPoll => some .burstReceiveFinish
  | .rpPoll => some .burstReceiveStop
  | _ => none

/-- The states that read `CTL.ERR` (rule R146). -/
def St.isErr : St → Bool
  | .w1Err | .wmErr | .wfErr | .r1Err | .rpErr => true
  | _ => false

/-- The states that read `CTL.DATA`, and the error check of a one-byte read before it (rules R172, R173, R177, R181, R185). -/
def St.needsData : St → Bool
  | .r1Err | .r1Get | .rsGet | .rmGet | .rfGet => true
  | _ => false

/-- The port as the sequencers keep it, where nothing else drives it (rules R44, R128, R129). -/
structure State.PortInv (s : State) : Prop where
  /-- a busy controller has a sequencer waiting for it (rule R44 item 1) -/
  busy_polled : ∀ h, (s.ctl h).busy = true → ∃ n, (s.seq n).activeOn h = true ∧ (s.seq n).st.isPoll = true
  /-- a command is issued in the direction addressed (rule R129) -/
  direction : ∀ n r, (s.seq n).st.direction = some r → (s.ctl (s.seq n).ctlid).rw = r
  /-- the command waited for is in flight, or completed and not yet observed (rule R44 item 2) -/
  polled : ∀ n c, (s.seq n).st.pollCmd = some c →
    (s.ctl (s.seq n).ctlid).infl = some c ∨
      ((s.ctl (s.seq n).ctlid).infl = none ∧ (s.ctl (s.seq n).ctlid).err.isSome = true ∧
        (c.receives = true → (s.ctl (s.seq n).ctlid).data.isSome = true))
  /-- an error check reads a completion's status, never ⊥ (rule R126) -/
  err_known : ∀ n, (s.seq n).st.isErr = true → (s.ctl (s.seq n).ctlid).err.isSome = true
  /-- a pull reads a completion's byte, never ⊥ (rule R113) -/
  data_known : ∀ n, (s.seq n).st.needsData = true → (s.ctl (s.seq n).ctlid).data.isSome = true

/-- The turn leaves the controllers to the sequencers: nothing else drives the port, and no reset comes (rules R94, R243). -/
def Turn.leavesPort : Turn → Bool
  | .drive _ _ => false
  | .reset _ => false
  | .submit _ _ => true
  | .readResult _ => true
  | .seq _ => true
  | .complete _ _ _ => true
  | .agentWrite _ _ => true
  | .agentRead _ => true

/-- Nothing is left to do: every instance is `IDLE` and no controller has a command in flight (rule R253). -/
def State.Quiescent (s : State) : Prop := (∀ n, (s.seq n).st = .idle) ∧ (∀ h, (s.ctl h).infl = none)

/-- The turn submits a request (rule R37). -/
def Turn.submits : Turn → Bool
  | .submit _ _ => true
  | .readResult _ => false
  | .seq _ => false
  | .complete _ _ _ => false
  | .drive _ _ => false
  | .agentWrite _ _ => false
  | .agentRead _ => false
  | .reset _ => false

/-- A run has ended where these turns are those to come: nothing is left to do, and the host has no further request to submit
(rule R253; a fault is no state). -/
def State.Ended (s : State) (toCome : List Turn) : Prop := s.Quiescent ∧ ∀ t ∈ toCome, t.submits = false

/-- A round of turns that serves instance `n`: the controller at `h` has a turn to complete what it has in flight, if anything,
and after that the instance has a turn. It gives fairness and `ctl_completes` (rule R252) a bound, and so asks for more than they do. -/
def servesRound (n : Nat) (h : Handle) (round : List Turn) : Prop :=
  ∃ (before between behind : List Turn) (e : BusErr) (d : Byte),
    round = before ++ .complete h e d :: (between ++ .seq n :: behind)

/-- Nothing but the sequencers drives the port in these turns (rule R94). -/
def undriven (turns : List Turn) : Prop := ∀ h w, Turn.drive h w ∉ turns

/-- Premise `buffers_admitted` of the request that instance `n` is working on: every byte that it may yet load or store. -/
def State.RequestAdmitted (s : State) (n : Nat) : Prop :=
  let q := s.seq n
  (q.mode = .xfer → s.Admitted .read q.wp.toNat q.wn.toNat) ∧
  (q.st.isIdentity = false → s.Admitted .write q.rp.toNat q.rn.toNat) ∧
  (q.mode = .ident →
    s.Admitted .write q.snp.toNat (max 16 s.cfg.snLen.toNat) ∧ s.Admitted .write q.macp.toNat (max 6 s.cfg.macLen.toNat))

/-- The registers of every instance but `n` are as they were. -/
def State.SameSeqsBut (s t : State) (n : Nat) : Prop := ∀ m, m ≠ n → t.seq m = s.seq m

/-- Every controller but the one at `h` is as it was. -/
def State.SameCtlsBut (s t : State) (h : Handle) : Prop := ∀ g, g ≠ h → t.ctl g = s.ctl g

/-- Every controller is as it was. -/
def State.SameCtls (s t : State) : Prop := ∀ g, t.ctl g = s.ctl g

/-- Every byte of memory reads as before. -/
def State.SameMemory (s t : State) : Prop := ∀ a, t.byteAt a = s.byteAt a

/-- Parameters, admission, the turns to come, the two selections and the outside record are as they were. -/
def State.SameAround (s t : State) : Prop :=
  t.cfg = s.cfg ∧ t.admission = s.admission ∧ t.env = s.env ∧ t.selInst = s.selInst ∧ t.portBy = s.portBy ∧ t.obs = s.obs

/-- The command a port instruction issues (rule R91). -/
def commandOf : Instr → Option Cmd
  | .cmdSingleSend => some .singleSend
  | .cmdBurstSendStart => some .burstSendStart
  | .cmdBurstSendContinue => some .burstSendContinue
  | .cmdBurstSendFinish => some .burstSendFinish
  | .cmdBurstReceiveStart => some .burstReceiveStart
  | .cmdBurstReceiveContinue => some .burstReceiveContinue
  | .cmdBurstReceiveFinish => some .burstReceiveFinish
  | .cmdBurstReceiveStop => some .burstReceiveStop
  | .cmdSingleReceiveNack => some .singleReceiveNack
  | .init _ => none
  | .xfer _ _ _ _ _ => none
  | .rdid _ _ => none
  | .ssa _ _ => none
  | .put _ => none
  | .get => none
  | .isBusy => none
  | .getError => none

/-- The instruction is a request, of the request interface, and not a port operation (rule R80). -/
def isRequest (i : Instr) : Bool := (encode i).width == 32

/-- The address the next step of instance `n` stores to, where its state is one that stores (rules R68, R69). -/
def State.storeTarget (s : State) (n : Nat) : Option Nat :=
  match (s.seq n).st with
  | .r1Get => some (bufferAddr (s.seq n).rp 0)
  | .rsGet => some (bufferAddr (s.seq n).rp 0)
  | .rmGet => some (bufferAddr (s.seq n).rp (s.seq n).i.toNat)
  | .rfGet => some (bufferAddr (s.seq n).rp (lastIndex (s.seq n).rn))
  | .idFill =>
    some
      (if (s.seq n).j.toNat < 16 then bufferAddr (s.seq n).snp (s.seq n).j.toNat
       else bufferAddr (s.seq n).macp ((s.seq n).j.toNat - 16))
  | .idRefillSn => some (bufferAddr (s.seq n).snp (s.seq n).j.toNat)
  | .idRefillMac => some (bufferAddr (s.seq n).macp (s.seq n).j.toNat)
  | _ => none

/-- The index of the write byte the next step of instance `n` loads, where its state is one that loads (rule R67). -/
def State.loadIndex (s : State) (n : Nat) : Option Nat :=
  match (s.seq n).st with
  | .w1Put => some 0
  | .wsPut => some 0
  | .wmPut => some (s.seq n).i.toNat
  | .wfPut => some (lastIndex (s.seq n).wn)
  | _ => none

/-- The address of a write byte that comes from memory (rules R28, R67). -/
def State.loadTarget (s : State) (n : Nat) : Option Nat :=
  match (s.seq n).wsrc with
  | .mem => (s.loadIndex n).map (bufferAddr (s.seq n).wp)
  | .const => none

/-- The step of instance `n` is enabled: it has a request in progress, and memory admits the byte its state loads or stores
(rules R22, R65). -/
def State.Enabled (s : State) (n : Nat) : Prop :=
  (s.seq n).st ≠ .idle ∧ (∀ a, s.storeTarget n = some a → s.admits .write a = true) ∧
    (∀ a, s.loadTarget n = some a → s.admits .read a = true)

/-- A run that goes on for ever: the turn of each moment, and the state before it. No step of it stops, which is the premise
`no_fault` (rule R245). -/
def IsRun (turn : Nat → Turn) (state : Nat → State) : Prop := ∀ i, step { state i with env := [turn i] } = .next (state (i + 1))

/-- THE FAIRNESS OF A SEQUENCER: a step of instance `n` that stays enabled is taken (rule R252). -/
def WeaklyFair (n : Nat) (turn : Nat → Turn) (state : Nat → State) : Prop :=
  ∀ i, (∀ j, i ≤ j → (state j).Enabled n) → ∃ j, i ≤ j ∧ turn j = .seq n

/-- Premise `ctl_completes`: a command in flight at `h` is eventually in flight no more (rule R252). -/
def CtlCompletes (h : Handle) (state : Nat → State) : Prop :=
  ∀ i, ((state i).ctl h).infl.isSome = true → ∃ j, i ≤ j ∧ ((state j).ctl h).infl = none

/-- The turn touches the buffers of the request of instance `n` from outside: it writes a byte of one, or reads a byte of a read
buffer or an output, and is not that instance's own (rule R77). -/
def State.Touches (s : State) (n : Nat) : Turn → Prop
  | .agentWrite a _ => (s.seq n).writeBufferHas a.toNat = true ∨ (s.seq n).outputBufferHas s.cfg a.toNat = true
  | .agentRead a => (s.seq n).outputBufferHas s.cfg a.toNat = true
  | .seq m => m ≠ n ∧
      ((∃ a, s.storeTarget m = some a ∧ ((s.seq n).writeBufferHas a = true ∨ (s.seq n).outputBufferHas s.cfg a = true)) ∨
        ∃ a, s.loadTarget m = some a ∧ (s.seq n).outputBufferHas s.cfg a = true)
  | .submit _ _ => False
  | .readResult _ => False
  | .complete _ _ _ => False
  | .drive _ _ => False
  | .reset _ => False

/-- Premise `buffers_owned`: until the request of instance `n` completes, no turn touches its buffers from outside (rules R77, R245,
R248). -/
def BuffersOwned (n : Nat) (turn : Nat → Turn) (state : Nat → State) : Prop :=
  ∀ i, (∀ j, j ≤ i → ((state j).seq n).st ≠ .idle) → ¬(state i).Touches n (turn i)

/-- A run has ended at a moment: nothing is left to do, and no request is submitted from then on (rule R253). -/
def EndedAt (turn : Nat → Turn) (state : Nat → State) (i : Nat) : Prop :=
  (state i).Quiescent ∧ ∀ j, i ≤ j → (turn j).submits = false

/-- The bytes of the write phase in order, as memory or `S.WK` holds them (rules R28, R63). -/
def State.writeBytes (s : State) (n : Nat) : List Byte :=
  (List.range (s.seq n).wn.toNat).map (fun i =>
    match (s.seq n).wsrc with
    | .mem => s.byteAt (bufferAddr (s.seq n).wp i)
    | .const => (s.seq n).wk)

/-- The commands of a trace, in order (rule R189). -/
def traceCommands : List TraceItem → List Cmd
  | [] => []
  | .op (.issueCommand c) :: t => c :: traceCommands t
  | _ :: t => traceCommands t

/-- The bytes a trace loads, in order (rule R189). -/
def tracePuts : List TraceItem → List Byte
  | [] => []
  | .op (.putData b) :: t => b :: tracePuts t
  | _ :: t => tracePuts t

/-- The bytes a trace pulls, in order (rule R189). -/
def traceGets : List TraceItem → List Byte
  | [] => []
  | .op (.getData b) :: t => b :: traceGets t
  | _ :: t => traceGets t

/-- The address-sets of a trace, in order (rule R189). -/
def traceAddresses : List TraceItem → List (SlaveAddr × Dir)
  | [] => []
  | .op (.setSlaveAddress a r) :: t => (a, r) :: traceAddresses t
  | _ :: t => traceAddresses t

/-- The error checks of a trace, in order (rule R189). -/
def traceChecks : List TraceItem → List BusErr
  | [] => []
  | .op (.getError e) :: t => e :: traceChecks t
  | _ :: t => traceChecks t

/-- The memory events of a run of the write phase: one read for each byte loaded, in order, where bytes come from memory (rules R67,
R189). -/
def readEvents (n : Nat) (q : Sequencer) (loaded : List Byte) : List MemEvent :=
  match q.wsrc with
  | .mem => loaded.mapIdx (fun i b => ⟨n, .read, bufferAddr q.wp i, b⟩)
  | .const => []

/-- The memory events of bytes stored in order (rules R68, R69). -/
def writeEvents (n : Nat) (stored : List (Nat × Byte)) : List MemEvent := stored.map (fun w => ⟨n, .write, w.1, w.2⟩)

end Sys2Proof.Machine
end

