-- ==== Sys2Proof/Certificates/Slice0/Obligations.lean ====
section
/-! DEFINITION. The statements for the provers. Each names the rules of spec/ it formalises. -/

open Sys2Proof Sys2Proof.Machine

/-! ## Encodings -/

/-- The decoder reads every well-formed instruction back from its encoding (rules R82 to R84, R89 to R92, R95). -/
def Obligations.DecodeEncodeRoundTrip : Prop :=
  ∀ i : Instr, i.wellFormed = true → decode (encode i) = .ok i

/-- What decodes to an instruction is that instruction's encoding: no two words mean the same (rules R85, R95, R96). -/
def Obligations.EncodeDecodeRoundTrip : Prop :=
  ∀ (c : Code) (i : Instr), decode c = .ok i → encode i = c

/-- Rule R86: a header with a reserved `OP` or nonzero reserved bits is refused, whatever the state, and no other header is. -/
def Obligations.ReservedHeadersRefused : Prop :=
  ∀ (s : State) (n : Nat) (hdr : Word) (ops : List Word) (rest : List Turn),
    let op := hdr.extractLsb' 28 4
    let reserved := (op ≠ 1 ∧ op ≠ 2 ∧ op ≠ 3) ∨ (op = 2 ∧ hdr.extractLsb' 7 21 ≠ 0) ∨
      ((op = 1 ∨ op = 3) ∧ hdr.extractLsb' 0 28 ≠ 0)
    (reserved → s.env = .submit n (hdr :: ops) :: rest → step s = .refused .badDescriptor) ∧
      (¬reserved → ∃ h, decodeHeader hdr = .ok h)

/-- Rule R94: a port word with a reserved `PRIM`, nonzero reserved operand bits or a reserved `CODE` is refused when anything
other than the sequencer drives it, and every operation a sequencer performs is a valid word. -/
def Obligations.ReservedPortWordsRefused : Prop :=
  (∀ (s : State) (h : Handle) (w : PortWord) (rest : List Turn),
    let prim := w.extractLsb' 12 4
    ((prim = 0 ∨ 7 ≤ prim.toNat) ∨ ((prim = 1 ∨ prim = 2) ∧ w.extractLsb' 8 4 ≠ 0) ∨
      ((prim = 3 ∨ prim = 5 ∨ prim = 6) ∧ w.extractLsb' 0 12 ≠ 0) ∨
      (prim = 4 ∧ (w.extractLsb' 4 8 ≠ 0 ∨ 9 ≤ (w.extractLsb' 0 4).toNat))) →
    s.env = .drive h w :: rest → step s = .refused .badPortWord) ∧
  (∀ o : PortOp, ∃ i, decode (.port o.word) = .ok i)

/-- Rule R96: the rows of the opcode table do not overlap, a header decodes as a request exactly where that request's row
matches it, and a port word decodes to an instruction exactly where that instruction's row matches it. -/
def Obligations.DecodersFollowOpcodeTable : Prop :=
  opcodeTable.Pairwise (fun r q => r.overlaps q = false) ∧
  (∀ hdr : Word,
    (decodeHeader hdr = .ok .init ↔ hdr &&& 0xFFFFFFFF = 0x10000000) ∧
    ((∃ sa, decodeHeader hdr = .ok (.transfer sa)) ↔ hdr &&& 0xFFFFFF80 = 0x20000000) ∧
    (decodeHeader hdr = .ok .readIdentity ↔ hdr &&& 0xFFFFFFFF = 0x30000000)) ∧
  (∀ (w : PortWord) (i : Instr), decodePort w = .ok i →
    ∃ r ∈ portRows, r.mnemonic = i.mnemonic ∧ r.matchesWord (w.setWidth 32) = true) ∧
  (∀ (w : PortWord), ∀ r ∈ portRows, r.matchesWord (w.setWidth 32) = true →
    ∃ i, decodePort w = .ok i ∧ i.mnemonic = r.mnemonic)

/-- Words written out in 95_test_vectors.md (E1, E4, E6, PT1-3, PT2-2, PT3-1, PT4, PT5-1, PT6-1) decode to what stands there. -/
def Obligations.WorkedWordsDecode : Prop :=
  decode (.request [0x20000050, 0x20000000, 0x00000003, 0x20000100, 0x00000002]) =
      .ok (.xfer 0x50 0x20000000 3 0x20000100 2) ∧
    decode (.request [0x10000000, 0x00000005]) = .ok (.init 5) ∧
    decode (.request [0x30000000, 0x20000200, 0x20000210]) = .ok (.rdid 0x20000200 0x20000210) ∧
    decode (.port 0x10B1) = .ok (.ssa 0x58 .read) ∧ decode (.port 0x20FF) = .ok (.put 0xFF) ∧
    decode (.port 0x3000) = .ok .get ∧ decode (.port 0x4001) = .ok .cmdBurstSendStart ∧
    decode (.port 0x4007) = .ok .cmdBurstReceiveStop ∧ decode (.port 0x4008) = .ok .cmdSingleReceiveNack ∧
    decode (.port 0x5000) = .ok .isBusy ∧ decode (.port 0x6000) = .ok .getError

/-- Rules R97 and R98: a line whose operands are in range assembles to the descriptor of its instruction with the numbers
written, a line with an operand out of range is an error, and a pseudo-instruction assembles as its expansion. -/
def Obligations.AssemblerEmitsDescriptors : Prop :=
  (∀ a : AsmReq, (a.wellFormed = true → ∃ c, a.assemble = .ok c ∧ decode c = .ok a.instr) ∧
    (a.wellFormed = false → a.assemble = .error .outOfRange) ∧ a.expand.instr = a.instr) ∧
  (∀ sa wp wn rp rn : Nat, (AsmReq.xfer sa wp wn rp rn).wellFormed = true →
    ∃ (a : SlaveAddr) (p n q m : Word), (AsmReq.xfer sa wp wn rp rn).instr = .xfer a p n q m ∧
      a.toNat = sa ∧ p.toNat = wp ∧ n.toNat = wn ∧ q.toNat = rp ∧ m.toNat = rn) ∧
  (∀ cid : Nat, (AsmReq.init cid).wellFormed = true → ∃ c : Handle, (AsmReq.init cid).instr = .init c ∧ c.toNat = cid) ∧
  (∀ snp macp : Nat, (AsmReq.rdid snp macp).wellFormed = true →
    ∃ p q : Word, (AsmReq.rdid snp macp).instr = .rdid p q ∧ p.toNat = snp ∧ q.toNat = macp)

/-! ## Requests -/

/-- Rule R203: `INIT` binds the handle and completes at once with result 1; it touches neither the port nor the FSM state;
a busy instance is the fault `Overlap`. -/
def Obligations.InitBindsHandle : Prop :=
  ∀ (cid : Handle) (s : State),
    ((s.seq s.selInst).st = .idle →
      ∃ t, exec (.init cid) s = .next t ∧
        t.seq s.selInst = { s.seq s.selInst with ctlid := cid, bound := true, result := some true } ∧
        t.hh = s.hh ++ [.done s.selInst true] ∧ t.h = s.h ∧ s.SameCtls t) ∧
    ((s.seq s.selInst).st ≠ .idle → exec (.init cid) s = .fault .overlap)

/-- Rule R142: an idle, bound instance whose controller no other instance uses accepts a `TRANSFER`: the latch is written and
the sequencer goes to `CHECK`. -/
def Obligations.XferLatchesTransaction : Prop :=
  ∀ (sa : SlaveAddr) (wp wn rp rn : Word) (s : State),
    (s.seq s.selInst).st = .idle → (s.seq s.selInst).bound = true →
    (∀ m, m ≠ s.selInst → (s.seq m).bound = true → (s.seq m).ctlid = (s.seq s.selInst).ctlid → (s.seq m).st = .idle) →
    ∃ t, exec (.xfer sa wp wn rp rn) s = .next t ∧
      t.seq s.selInst =
        { s.seq s.selInst with
          sa := sa, wp := wp, wn := wn, rp := rp, rn := rn, wsrc := .mem, mode := .xfer, st := .check } ∧
      t.h = s.h ∧ t.mh = s.mh ∧ t.hh = s.hh

/-- Rule R192: under the same premises an instance accepts a `READ_IDENTITY`. -/
def Obligations.RdidLatchesOutputs : Prop :=
  ∀ (snp macp : Word) (s : State),
    (s.seq s.selInst).st = .idle → (s.seq s.selInst).bound = true →
    (∀ m, m ≠ s.selInst → (s.seq m).bound = true → (s.seq m).ctlid = (s.seq s.selInst).ctlid → (s.seq m).st = .idle) →
    ∃ t, exec (.rdid snp macp) s = .next t ∧
      t.seq s.selInst =
        { s.seq s.selInst with snp := snp, macp := macp, mode := .ident, j := 0, st := .idFill } ∧
      t.h = s.h ∧ t.mh = s.mh ∧ t.hh = s.hh

/-- The acceptance checks of `XFER` and `RDID` in the order of rule R217: `Overlap`, `NotBound`, `SharedController`. -/
def Obligations.AcceptanceFaultsInOrder : Prop :=
  ∀ (i : Instr) (s : State), ((∃ sa wp wn rp rn, i = .xfer sa wp wn rp rn) ∨ ∃ snp macp, i = .rdid snp macp) →
    let q := s.seq s.selInst
    (q.st ≠ .idle → exec i s = .fault .overlap) ∧
    (q.st = .idle → q.bound = false → exec i s = .fault .notBound) ∧
    (q.st = .idle → q.bound = true →
      (∃ m, m ≠ s.selInst ∧ (s.seq m).bound = true ∧ (s.seq m).ctlid = q.ctlid ∧ (s.seq m).st ≠ .idle) →
      exec i s = .fault .sharedController)

/-- The frame of `INIT`, `XFER` and `RDID`: what each leaves as it was. The request that `XFER` or `RDID` begins has no raced byte
yet; the record of raced bytes is the model's own (log entry 24). -/
def Obligations.RequestFrame : Prop :=
  ∀ (i : Instr) (s t : State), isRequest i = true → exec i s = .next t →
    s.SameSeqsBut t s.selInst ∧ s.SameCtls t ∧ s.SameMemory t ∧ s.SameAround t ∧ t.h = s.h ∧ t.mh = s.mh ∧
    t.draws = s.draws ∧ (∀ m a, m ≠ s.selInst → t.racedFor (some m) a = s.racedFor (some m) a) ∧
    (let q := s.seq s.selInst
     let q' := t.seq s.selInst
     q'.idstg = q.idstg ∧ q'.wk = q.wk ∧ q'.i = q.i ∧ q'.tc = q.tc ∧ q'.xok = q.xok ∧ q'.cause = q.cause ∧
     ((∃ cid, i = .init cid) →
       q'.st = q.st ∧ q'.mode = q.mode ∧ q'.sa = q.sa ∧ q'.wsrc = q.wsrc ∧ q'.wp = q.wp ∧ q'.wn = q.wn ∧
       q'.rp = q.rp ∧ q'.rn = q.rn ∧ q'.j = q.j ∧ q'.snp = q.snp ∧ q'.macp = q.macp ∧ t.raced = s.raced) ∧
     ((∃ sa wp wn rp rn, i = .xfer sa wp wn rp rn) →
       q'.bound = q.bound ∧ q'.ctlid = q.ctlid ∧ q'.j = q.j ∧ q'.result = q.result ∧ q'.snp = q.snp ∧
       q'.macp = q.macp ∧ t.hh = s.hh ∧ ∀ a, t.racedFor (some s.selInst) a = false) ∧
     ((∃ snp macp, i = .rdid snp macp) →
       q'.bound = q.bound ∧ q'.ctlid = q.ctlid ∧ q'.sa = q.sa ∧ q'.wsrc = q.wsrc ∧ q'.wp = q.wp ∧ q'.wn = q.wn ∧
       q'.rp = q.rp ∧ q'.rn = q.rn ∧ q'.result = q.result ∧ t.hh = s.hh ∧ ∀ a, t.racedFor (some s.selInst) a = false))

/-! ## Port operations -/

/-- Rule R111: `SetSlaveAddress` writes `CTL.ADDR` and `CTL.RW`, any 7-bit address, and logs one event; a busy port faults. -/
def Obligations.SetSlaveAddressWritesAddress : Prop :=
  ∀ (a : SlaveAddr) (r : Dir) (s : State),
    let h := s.handleOf s.portBy
    encode (.ssa a r) = .port (0x1000 ||| (a.setWidth 16 <<< 1) ||| r.bit.setWidth 16) ∧
    ((s.ctl h).busy = true → exec (.ssa a r) s = .fault .portBusy) ∧
    ((s.ctl h).busy = false →
      ∃ t, exec (.ssa a r) s = .next t ∧ t.ctl h = { s.ctl h with addr := a, rw := r } ∧
        t.h = s.h ++ [.port s.portBy (.setSlaveAddress a r)])

/-- Rule R112: `PutData` writes `CTL.DATA` and logs one event; a busy port faults. -/
def Obligations.PutDataWritesDataRegister : Prop :=
  ∀ (b : Byte) (s : State),
    let h := s.handleOf s.portBy
    encode (.put b) = .port (0x2000 ||| b.setWidth 16) ∧
    ((s.ctl h).busy = true → exec (.put b) s = .fault .portBusy) ∧
    ((s.ctl h).busy = false →
      ∃ t, exec (.put b) s = .next t ∧ t.ctl h = { s.ctl h with data := some b } ∧
        t.h = s.h ++ [.port s.portBy (.putData b)])

/-- `GetData` (rule R113) always completes; it returns `CTL.DATA` of an idle controller, else any byte, and changes no controller.
That any byte is the free byte of the model's counter is the model's choice (log entry 10). -/
def Obligations.GetDataReadsDataRegister : Prop :=
  encode .get = .port 0x3000 ∧
  ∀ s : State, ∃ (t : State) (b : Byte), exec .get s = .next t ∧ t.h = s.h ++ [.port s.portBy (.getData b)] ∧
    s.SameCtls t ∧
    (∀ d, (s.ctl (s.handleOf s.portBy)).busy = false → (s.ctl (s.handleOf s.portBy)).data = some d → b = d) ∧
    ((s.ctl (s.handleOf s.portBy)).busy = true ∨ (s.ctl (s.handleOf s.portBy)).data = none →
      b = Config.freeByte s.draws)

/-- Rule R114, for each of the nine commands: in the direction addressed, on an idle controller, the command goes in flight and
`CTL.BUSY` is set in the same step; else `PortBusy` or `DirMismatch`. -/
def Obligations.IssueCommandStartsCommand : Prop :=
  (∀ c : Cmd, c.dir = .write ↔
    c = .singleSend ∨ c = .burstSendStart ∨ c = .burstSendContinue ∨ c = .burstSendFinish) ∧
  ∀ (i : Instr) (c : Cmd) (s : State), commandOf i = some c →
    let h := s.handleOf s.portBy
    encode i = .port (0x4000 ||| c.code.setWidth 16) ∧
    ((s.ctl h).busy = true → exec i s = .fault .portBusy) ∧
    ((s.ctl h).busy = false → c.dir ≠ (s.ctl h).rw → exec i s = .fault .dirMismatch) ∧
    ((s.ctl h).busy = false → c.dir = (s.ctl h).rw →
      ∃ t, exec i s = .next t ∧ t.ctl h = { s.ctl h with infl := some c, busy := true } ∧
        t.h = s.h ++ [.port s.portBy (.issueCommand c)])

/-- Rule R125: `IsBusy` always completes, returns `CTL.BUSY`, and changes no controller. -/
def Obligations.IsBusyReadsBusy : Prop :=
  encode .isBusy = .port 0x5000 ∧
  ∀ s : State, ∃ t, exec .isBusy s = .next t ∧
    t.h = s.h ++ [.port s.portBy (.isBusy (s.ctl (s.handleOf s.portBy)).busy)] ∧ s.SameCtls t

/-- `GetError` (rule R126) always completes; it returns `CTL.ERR` of an idle controller, else any status, and changes no
controller, so reading does not clear it. That any status is the free status of the model's counter is the model's choice (log
entry 10). -/
def Obligations.GetErrorReadsStatus : Prop :=
  encode .getError = .port 0x6000 ∧
  ∀ s : State, ∃ (t : State) (e : BusErr), exec .getError s = .next t ∧
    t.h = s.h ++ [.port s.portBy (.getError e)] ∧ s.SameCtls t ∧
    (∀ d, (s.ctl (s.handleOf s.portBy)).busy = false → (s.ctl (s.handleOf s.portBy)).err = some d → e = d) ∧
    ((s.ctl (s.handleOf s.portBy)).busy = true ∨ (s.ctl (s.handleOf s.portBy)).err = none →
      e = Config.freeErr s.draws)

/-- The frame of the fourteen port operations: every sequencer register, every byte of memory, the other histories and every
other controller stay; of the controller addressed, `ADDR` and `RW` change only by `SSA`, `DATA` only by `PUT`, `BUSY` and
`INFL` only by a command, `ERR` by none. -/
def Obligations.PortOperationFrame : Prop :=
  ∀ (i : Instr) (s t : State), isRequest i = false → exec i s = .next t →
    let h := s.handleOf s.portBy
    (∀ m, t.seq m = s.seq m) ∧ s.SameMemory t ∧ s.SameAround t ∧ t.mh = s.mh ∧ t.hh = s.hh ∧ s.SameCtlsBut t h ∧
    (t.ctl h).err = (s.ctl h).err ∧
    ((∀ a r, i ≠ .ssa a r) → (t.ctl h).addr = (s.ctl h).addr ∧ (t.ctl h).rw = (s.ctl h).rw) ∧
    ((∀ b, i ≠ .put b) → (t.ctl h).data = (s.ctl h).data) ∧
    (commandOf i = none → (t.ctl h).busy = (s.ctl h).busy ∧ (t.ctl h).infl = (s.ctl h).infl)

/-- Rule R124, with the completions of R115 to R123: the drawn status is written, the drawn byte only by the four receive
commands, the controller is idle, one event is logged and nothing else changes; with no command in flight nothing happens. -/
def Obligations.CompletionWritesDraws : Prop :=
  ∀ (h : Handle) (e : BusErr) (d : Byte) (s : State), ∃ t, runTurn (.complete h e d) s = .next t ∧
    ((s.ctl h).infl = none → t = s) ∧
    (∀ c, (s.ctl h).infl = some c →
      let received := c = .burstReceiveStart ∨ c = .burstReceiveContinue ∨ c = .burstReceiveFinish ∨ c = .singleReceiveNack
      (t.ctl h).err = some e ∧ (t.ctl h).infl = none ∧ (t.ctl h).busy = false ∧ (t.ctl h).addr = (s.ctl h).addr ∧
      (t.ctl h).rw = (s.ctl h).rw ∧
      (received → (t.ctl h).data = some d ∧ t.h = s.h ++ [.complete h c e (some d)]) ∧
      (¬received → (t.ctl h).data = (s.ctl h).data ∧ t.h = s.h ++ [.complete h c e none]) ∧
      s.SameCtlsBut t h ∧ (∀ m, t.seq m = s.seq m) ∧ s.SameMemory t ∧ s.SameAround t ∧ t.mh = s.mh ∧ t.hh = s.hh)

/-! ## The machine -/

/-- Rules R87 and R216: the host's read of `S.RESULT` gives the result word, bit 0 the result and the other bits 0, and changes
nothing of the machine but its record of what was read (log entry 18); while it is ⊥ the read is the fault `ReadUnset`. That the
read is admitted during a request too is the model's choice (log entry 23). -/
def Obligations.HostReadsResult : Prop :=
  ∀ (n : Nat) (s : State),
    n < s.cfg.ninst →
    ((s.seq n).result = none → runTurn (.readResult n) s = .fault .readUnset) ∧
    (∀ b, (s.seq n).result = some b →
      ∃ (t : State) (w : Word), runTurn (.readResult n) s = .next t ∧ t = { s with obs := s.obs ++ [.result n w] } ∧
        w.extractLsb' 1 31 = 0 ∧ (w.extractLsb' 0 1 = 1 ↔ b = true))

/-- Rule R77: another agent's write changes that byte and no other; a byte of no buffer of a request in progress takes the value
written. Another agent's read changes no byte; it gives the byte there where that lies in no read buffer and no output of a request
in progress, though it lie in a write buffer. A write to a buffer leaves any value and a read of a read buffer or an output gives
any value: the model's reading of the race (decision D21, log entry 11). After such a write the accesses of that request's own
sequencer to the byte are part of the race too, so that its `MemRead` need not return what memory holds (log entry 24). That both
accesses take effect at every address, admitted to the sequencer or not, is the model's choice (log entry 22), and so is the record
`obs` of what was read (log entry 18). -/
def Obligations.AgentsAccessMemory : Prop :=
  ∀ (a : Word) (b : Byte) (s : State),
    let inOutput := ∃ m, (s.seq m).outputBufferHas s.cfg a.toNat = true
    let inBuffer := inOutput ∨ ∃ m, (s.seq m).writeBufferHas a.toNat = true
    ∃ t u : State, runTurn (.agentWrite a b) s = .next t ∧ runTurn (.agentRead a) s = .next u ∧
      (∀ c, c ≠ a.toNat → t.byteAt c = s.byteAt c) ∧
      (¬inBuffer → t.byteAt a.toNat = b) ∧ (inBuffer → t.byteAt a.toNat = Config.freeByte s.draws) ∧
      (∀ m, (s.seq m).writeBufferHas a.toNat = true ∨ (s.seq m).outputBufferHas s.cfg a.toNat = true →
        t.readRaces (some m) a.toNat = true ∧ t.writeRaces (some m) a.toNat = true) ∧
      (∀ n, t.seq n = s.seq n) ∧ s.SameCtls t ∧ t.h = s.h ∧ t.mh = s.mh ∧ t.hh = s.hh ∧
      s.SameMemory u ∧ (∀ n, u.seq n = s.seq n) ∧ s.SameCtls u ∧ u.h = s.h ∧ u.mh = s.mh ∧ u.hh = s.hh ∧
      (¬inOutput → u.obs = s.obs ++ [.byte a (s.byteAt a.toNat)]) ∧
      (inOutput → u.obs = s.obs ++ [.byte a (Config.freeByte s.draws)])

/-- A step runs the instruction its turn brings: a request submitted to an instance is `exec` of it with that instance
selected, a port word driven at a handle (rule R94) is `exec` of it performed by the driver of that handle; the turn is off the
list. The list of turns, what a submission to no instance does, and the selected instance and driver are the model's choices (log
entries 1, 2 and 13). -/
def Obligations.StepRunsDecodedInstruction : Prop :=
  (∀ (s : State) (n : Nat) (ws : List Word) (rest : List Turn) (i : Instr), s.env = .submit n ws :: rest →
    decode (.request ws) = .ok i → i.wellFormed = true →
    (n < s.cfg.ninst → step s = exec i { s with env := rest, selInst := n }) ∧
      (s.cfg.ninst ≤ n → step s = .next { s with env := rest })) ∧
  (∀ (s : State) (h : Handle) (w : PortWord) (rest : List Turn) (i : Instr), s.env = .drive h w :: rest →
    decode (.port w) = .ok i → i.wellFormed = true → step s = exec i { s with env := rest, portBy := .driver h })

/-- `withFetchWord`, which is the model's choice for a block that fetches nothing (log entry 15), makes the instruction with those
bits the next step. -/
def Obligations.FetchWordRunsNext : Prop :=
  ∀ (s : State) (nbits w : Nat) (i : Instr), decodeTableWord nbits w = some i → s.selInst < s.cfg.ninst →
    step (s.withFetchWord nbits w) =
      exec i (if isRequest i then s else { s with portBy := .driver (s.handleOf s.portBy) })

/-- The sequencer's address, load and command states perform the table's own port instructions on the port of their instance,
and then go on (rules R110, R149 to R186). `S.WN − 1` at a count of 0, which no run reaches, is the model's choice (log entry 21). -/
def Obligations.SequencerPerformsPortInstructions : Prop :=
  ∀ (n : Nat) (s : State), s.portBy = .inst n →
    (∀ r st next, (st, r, next) ∈ ([(.w1Sa, .write, .w1Put), (.wsSa, .write, .wsPut), (.wmSa, .write, .wmPut),
        (.wfSa, .write, .wfPut), (.r1Sa, .read, .r1Cmd), (.rsSa, .read, .rsCmd), (.rmSa, .read, .rmCmd),
        (.rfSa, .read, .rfCmd)] : List (St × Dir × St)) →
      (s.seq n).st = st →
      seqStep n s = Result.andThen (exec (.ssa (s.seq n).sa r) s) (fun t => .next (t.goto n next))) ∧
    (∀ i st next b u, (st, i, next) ∈ ([(.w1Put, 0, .w1Cmd), (.wsPut, 0, .wsCmd), (.wmPut, (s.seq n).i.toNat, .wmCmd),
        (.wfPut, (s.seq n).wn.toNat - 1, .wfCmd)] : List (St × Nat × St)) →
      (s.seq n).st = st → writeByte n i s = some (b, u) →
      seqStep n s = Result.andThen (exec (.put b) u) (fun t => .next (t.goto n next))) ∧
    (∀ i st next, (st, i, next) ∈ ([(.w1Cmd, .cmdSingleSend, .w1Poll), (.wsCmd, .cmdBurstSendStart, .wsPoll),
        (.wmCmd, .cmdBurstSendContinue, .wmPoll), (.wfCmd, .cmdBurstSendFinish, .wfPoll),
        (.r1Cmd, .cmdSingleReceiveNack, .r1Poll), (.rsCmd, .cmdBurstReceiveStart, .rsPoll),
        (.rmCmd, .cmdBurstReceiveContinue, .rmPoll), (.rfCmd, .cmdBurstReceiveFinish, .rfPoll),
        (.rpCmd, .cmdBurstReceiveStop, .rpPoll)] : List (St × Instr × St)) →
      (s.seq n).st = st →
      seqStep n s = Result.andThen (exec i s) (fun t => .next (t.setSeq n { t.seq n with tc := 0, st := next })))

/-- Rules R240 and R242: after reset every instance is `IDLE`, `NONE` and unbound with its result ⊥, so that the host's read of
it faults, and the histories are empty. -/
def Obligations.ResetLeavesIdle : Prop :=
  (∀ n, (State.reset.seq n).st = .idle ∧ (State.reset.seq n).mode = .none ∧ (State.reset.seq n).bound = false ∧
    (State.reset.seq n).result = none ∧
    (n < State.reset.cfg.ninst → runTurn (.readResult n) State.reset = .fault .readUnset)) ∧
  State.reset.h = [] ∧ State.reset.mh = [] ∧ State.reset.hh = []

/-- Reset during a request (rule R243) puts every instance in the state of rule R240 as far as that rule gives values, empties the
histories (rule R242, decision D17) and keeps memory; a controller takes its last draw, and one without a draw is as it was. That a
drawn controller has `BUSY` exactly with a command in flight is the model's (log entry 16). -/
def Obligations.ResetTurnReturnsToReset : Prop :=
  ∀ (ds : List CtlDraw) (s : State), ∃ t, runTurn (.reset ds) s = .next t ∧
    (∀ n, (t.seq n).st = .idle ∧ (t.seq n).mode = .none ∧ (t.seq n).bound = false ∧ (t.seq n).result = none) ∧
    s.SameMemory t ∧ t.h = [] ∧ t.mh = [] ∧ t.hh = [] ∧
    (∀ h, t.ctl h = s.ctl h ∨ ∃ d ∈ ds, d.handle = h ∧ t.ctl h = d.controller) ∧
    (∀ ds₁ d ds₂, ds = ds₁ ++ d :: ds₂ → (∀ e ∈ ds₂, e.handle ≠ d.handle) → t.ctl d.handle = d.controller) ∧
    (∀ h, (∀ d ∈ ds, d.handle ≠ h) → t.ctl h = s.ctl h)

/-- The invariants hold after reset. The clauses about controllers rest on the model's reset values (log entry 5). -/
def Obligations.ResetMeetsInvariants : Prop := State.reset.Inv ∧ State.reset.PortInv

/-- Every step, of every agent, keeps: the canonical tables; `MODE = NONE` exactly in `IDLE` and the bounds on counts and
indices (rule R44 items 3 and 4); `BUSY` exactly with a command in flight (rule R34); no two instances active on one
controller (rule R225); no instance beyond `NINST` (rule R6) leaves its reset state. That a reset draws `BUSY` exactly with a
command in flight, where rule R241 has any value, is the model's (log entry 16), and so is what an instance beyond `NINST` does
(log entry 2). -/
def Obligations.StepKeepsInvariant : Prop := ∀ s t : State, s.Inv → step s = .next t → t.Inv

/-- Where nothing but the sequencers drives the port, no reset comes and `BUSY_TIMEOUT = none`, every step keeps: a busy
controller has a sequencer waiting for it, the command waited for is in flight or completed (rule R44 items 1 and 2), and
commands are issued in the direction addressed (rule R129). -/
def Obligations.StepKeepsPortDiscipline : Prop :=
  ∀ s t : State, s.Inv → s.PortInv → s.cfg.busyTimeout = none → s.nextTurn.leavesPort = true → step s = .next t → t.PortInv

/-- Under these invariants no sequencer step faults: `PortBusy` and `DirMismatch` cannot occur (rules R128, R129, R140). -/
def Obligations.SequencerNeverFaults : Prop := ∀ (s : State) (n : Nat), s.Inv → s.PortInv → ∃ t, seqStep n s = .next t

/-- No step changes the parameters or the launch admission (rules R6, R65; log entries 3 and 8). -/
def Obligations.ParametersNeverChange : Prop := ∀ s t : State, step s = .next t → t.cfg = s.cfg ∧ t.admission = s.admission

/-- Rule R27: the transaction latch is written only when a `TRANSFER` is accepted or by `ID_SN` or `ID_MAC` (or by reset). -/
def Obligations.LatchWrittenOnlyAtStart : Prop :=
  ∀ (s t : State) (n : Nat), step s = .next t →
    ((t.seq n).sa ≠ (s.seq n).sa ∨ (t.seq n).wp ≠ (s.seq n).wp ∨ (t.seq n).wn ≠ (s.seq n).wn ∨
      (t.seq n).rp ≠ (s.seq n).rp ∨ (t.seq n).rn ≠ (s.seq n).rn) →
    (∃ ws sa wp wn rp rn, s.nextTurn = .submit n ws ∧ decode (.request ws) = .ok (.xfer sa wp wn rp rn)) ∨
    (s.nextTurn = .seq n ∧ ((s.seq n).st = .idSn ∨ (s.seq n).st = .idMac)) ∨ ∃ ds, s.nextTurn = .reset ds

/-- Rule R26: the controller binding is written only by `INIT` to that instance, and by reset. -/
def Obligations.BindingWrittenOnlyByInit : Prop :=
  ∀ (s t : State) (n : Nat), step s = .next t →
    ((t.seq n).bound ≠ (s.seq n).bound ∨ (t.seq n).ctlid ≠ (s.seq n).ctlid) →
    (∃ ws cid, s.nextTurn = .submit n ws ∧ decode (.request ws) = .ok (.init cid)) ∨ ∃ ds, s.nextTurn = .reset ds

/-- Rule R32: `S.RESULT` is written only where a request completes: by `INIT`, in `DONE_OK` and `DONE_FAIL` of a host's transfer,
in `ID_END` (and by reset). -/
def Obligations.ResultWrittenOnlyAtCompletion : Prop :=
  ∀ (s t : State) (n : Nat), step s = .next t → (t.seq n).result ≠ (s.seq n).result →
    (∃ ws cid, s.nextTurn = .submit n ws ∧ decode (.request ws) = .ok (.init cid)) ∨
    (s.nextTurn = .seq n ∧ (((s.seq n).st = .doneOk ∨ (s.seq n).st = .doneFail) ∧ (s.seq n).mode = .xfer ∨
      (s.seq n).st = .idEnd)) ∨
    ∃ ds, s.nextTurn = .reset ds

/-- Rule R37: a sequencer step that returns to `IDLE` completes the request: `MODE` is `NONE` and `Done(S.RESULT)` is appended;
a step that does not return to `IDLE` appends nothing to the host history. -/
def Obligations.ReturnToIdleLogsDone : Prop :=
  ∀ (n : Nat) (s t : State), (s.seq n).st ≠ .idle → seqStep n s = .next t →
    ((t.seq n).st = .idle → (t.seq n).mode = .none ∧
      ∃ b, (t.seq n).result = some b ∧ (t.seq n).xok = b ∧ t.hh = s.hh ++ [.done n b]) ∧
    ((t.seq n).st ≠ .idle → t.hh = s.hh ∧ (t.seq n).result = (s.seq n).result)

/-- Rules R43 and R225: a sequencer step leaves every other instance, every other controller and everything around as it was.
What it does to memory is `MemoryWrittenOnlyAtTarget`, to the histories `HistoriesAreOnlyObserved`. -/
def Obligations.SequencerStepIsLocal : Prop :=
  ∀ (n : Nat) (s t : State), seqStep n s = .next t →
    s.SameSeqsBut t n ∧ s.SameCtlsBut t (s.seq n).ctlid ∧ s.SameAround t ∧
    (t.ctl (s.seq n).ctlid).err = (s.ctl (s.seq n).ctlid).err

/-- The bytes a step may change: the byte another agent writes, or the one byte a sequencer in a `*_GET`, `ID_FILL` or
`ID_REFILL_*` state stores to, where memory admits it (rules R43, R65, R68, R69). So a step whose turn is not that of instance `n`
and does not touch the buffers of its request from outside (`buffers_owned`, rules R77 and R245) leaves them as they were; and no
step that does not touch them makes a byte of them a raced one (log entry 24). -/
def Obligations.MemoryWrittenOnlyAtTarget : Prop :=
  (∀ (s t : State) (a : Nat), step s = .next t → t.byteAt a ≠ s.byteAt a →
    (∃ (w : Word) (b : Byte), s.nextTurn = .agentWrite w b ∧ w.toNat = a) ∨
    ∃ n, s.nextTurn = .seq n ∧ s.storeTarget n = some a ∧ s.admits .write a = true) ∧
  (∀ (s t : State) (n a : Nat), step s = .next t → s.nextTurn ≠ .seq n → ¬s.Touches n s.nextTurn →
    (s.seq n).writeBufferHas a = true ∨ (s.seq n).outputBufferHas s.cfg a = true → t.byteAt a = s.byteAt a) ∧
  (∀ (s t : State) (n a : Nat), step s = .next t → ¬s.Touches n s.nextTurn →
    t.racedFor (some n) a = true → s.racedFor (some n) a = true)

/-- Rules R37 to R39: the histories are only appended to, but by a reset, which empties them (rule R242, decision D17); they are
observation state, which no step reads: with other histories a step does the same. The record `obs` is the model's own (log entry
18). -/
def Obligations.HistoriesAreOnlyObserved : Prop :=
  ∀ (s t : State) (h' : List PortEvent) (mh' : List MemEvent) (hh' : List HostEvent) (obs' : List Observation),
    step s = .next t →
    ∃ t', step { s with h := h', mh := mh', hh := hh', obs := obs' } = .next t' ∧
      t' = { t with h := t'.h, mh := t'.mh, hh := t'.hh, obs := t'.obs } ∧
      (∃ eobs, t.obs = s.obs ++ eobs ∧ t'.obs = obs' ++ eobs) ∧
      ((∀ ds, s.nextTurn ≠ .reset ds) →
        ∃ eh emh ehh, t.h = s.h ++ eh ∧ t'.h = h' ++ eh ∧ t.mh = s.mh ++ emh ∧ t'.mh = mh' ++ emh ∧
          t.hh = s.hh ++ ehh ∧ t'.hh = hh' ++ ehh) ∧
      (∀ ds, s.nextTurn = .reset ds →
        t.h = [] ∧ t.mh = [] ∧ t.hh = [] ∧ t'.h = [] ∧ t'.mh = [] ∧ t'.hh = [])

/-! ## The sequencer's states -/

/-- The address states (rules R149, R154, R158, R163, R169, R174, R178, R182). -/
def Obligations.AddressStates : Prop :=
  ∀ (n : Nat) (s : State) (st next : St) (r : Dir),
    (st, r, next) ∈ ([(.w1Sa, .write, .w1Put), (.wsSa, .write, .wsPut), (.wmSa, .write, .wmPut), (.wfSa, .write, .wfPut),
      (.r1Sa, .read, .r1Cmd), (.rsSa, .read, .rsCmd), (.rmSa, .read, .rmCmd), (.rfSa, .read, .rfCmd)] : List (St × Dir × St)) →
    (s.seq n).st = st →
    ((s.ctl (s.seq n).ctlid).busy = true → seqStep n s = .fault .portBusy) ∧
    ((s.ctl (s.seq n).ctlid).busy = false →
      ∃ t, seqStep n s = .next t ∧ t.seq n = { s.seq n with st := next } ∧
        t.ctl (s.seq n).ctlid = { s.ctl (s.seq n).ctlid with addr := (s.seq n).sa, rw := r } ∧
        t.h = s.h ++ [.port (.inst n) (.setSlaveAddress (s.seq n).sa r)] ∧
        (PortOp.setSlaveAddress (s.seq n).sa r).word =
          0x1000 ||| ((s.seq n).sa.setWidth 16 <<< 1) ||| r.bit.setWidth 16 ∧
        s.SameMemory t ∧ t.mh = s.mh ∧ t.hh = s.hh)

/-- The load states (rules R150, R155, R159, R164): the byte with the state's index, from memory with one read or from `S.WK`
with none, goes to the data register. A read that is part of a race (rule R77, decision D21; log entries 11 and 24) gives any byte.
`S.WN − 1` at a count of 0, which no run reaches, is the model's choice (log entry 21). -/
def Obligations.LoadStates : Prop :=
  ∀ (n : Nat) (s : State) (st next : St) (i : Nat),
    (st, i, next) ∈ ([(.w1Put, 0, .w1Cmd), (.wsPut, 0, .wsCmd), (.wmPut, (s.seq n).i.toNat, .wmCmd),
      (.wfPut, (s.seq n).wn.toNat - 1, .wfCmd)] : List (St × Nat × St)) →
    (s.seq n).st = st →
    ((s.seq n).wsrc = .mem → s.admits .read ((s.seq n).wp.toNat + i) = true) →
    ((s.ctl (s.seq n).ctlid).busy = true → seqStep n s = .fault .portBusy) ∧
    ((s.ctl (s.seq n).ctlid).busy = false →
      ∃ (t : State) (b : Byte), seqStep n s = .next t ∧ t.seq n = { s.seq n with st := next } ∧
        t.ctl (s.seq n).ctlid = { s.ctl (s.seq n).ctlid with data := some b } ∧
        t.h = s.h ++ [.port (.inst n) (.putData b)] ∧ (PortOp.putData b).word = 0x2000 ||| b.setWidth 16 ∧
        s.SameMemory t ∧ t.hh = s.hh ∧
        ((s.seq n).wsrc = .mem →
          (s.readRaces (some n) ((s.seq n).wp.toNat + i) = false → b = s.byteAt ((s.seq n).wp.toNat + i)) ∧
          (s.readRaces (some n) ((s.seq n).wp.toNat + i) = true → b = Config.freeByte s.draws) ∧
          t.mh = s.mh ++ [⟨n, .read, (s.seq n).wp.toNat + i, b⟩]) ∧
        ((s.seq n).wsrc = .const → b = (s.seq n).wk ∧ t.mh = s.mh))

/-- The command states (rules R151, R156, R160, R165, R170, R175, R179, R183, R186): the command goes in flight and `S.TC` is
cleared. -/
def Obligations.CommandStates : Prop :=
  ∀ (n : Nat) (s : State) (st next : St) (c : Cmd),
    (st, c, next) ∈ ([(.w1Cmd, .singleSend, .w1Poll), (.wsCmd, .burstSendStart, .wsPoll),
      (.wmCmd, .burstSendContinue, .wmPoll), (.wfCmd, .burstSendFinish, .wfPoll), (.r1Cmd, .singleReceiveNack, .r1Poll),
      (.rsCmd, .burstReceiveStart, .rsPoll), (.rmCmd, .burstReceiveContinue, .rmPoll),
      (.rfCmd, .burstReceiveFinish, .rfPoll), (.rpCmd, .burstReceiveStop, .rpPoll)] : List (St × Cmd × St)) →
    (s.seq n).st = st →
    ((s.ctl (s.seq n).ctlid).busy = true → seqStep n s = .fault .portBusy) ∧
    ((s.ctl (s.seq n).ctlid).busy = false → c.dir ≠ (s.ctl (s.seq n).ctlid).rw → seqStep n s = .fault .dirMismatch) ∧
    ((s.ctl (s.seq n).ctlid).busy = false → c.dir = (s.ctl (s.seq n).ctlid).rw →
      ∃ t, seqStep n s = .next t ∧ t.seq n = { s.seq n with st := next, tc := 0 } ∧
        t.ctl (s.seq n).ctlid = { s.ctl (s.seq n).ctlid with infl := some c, busy := true } ∧
        t.h = s.h ++ [.port (.inst n) (.issueCommand c)] ∧
        (PortOp.issueCommand c).word = 0x4000 ||| c.code.setWidth 16 ∧
        s.SameMemory t ∧ t.mh = s.mh ∧ t.hh = s.hh)

/-- The busy-wait states (rules R127, R145, R152, R157, R161, R166, R171, R176, R180, R184, R187): one poll; on idle the
sequencer goes on; on busy it stays and counts the poll, or, at the k-th under `BUSY_TIMEOUT = some k`, aborts with `TIMEOUT`.
Nothing is said of the count where `S.TC + 1` leaves its 32 bits (log entry 12). -/
def Obligations.BusyWaitStates : Prop :=
  ∀ (n : Nat) (s : State) (st next : St),
    (st, next) ∈ ([(.w1Poll, .w1Err), (.wsPoll, if 3 ≤ (s.seq n).wn.toNat then .wmSa else .wfSa), (.wmPoll, .wmErr),
      (.wfPoll, .wfErr), (.r1Poll, .r1Err), (.rsPoll, .rsGet), (.rmPoll, .rmGet), (.rfPoll, .rfGet),
      (.rpPoll, .rpErr)] : List (St × St)) →
    (s.seq n).st = st →
    ∃ t, seqStep n s = .next t ∧
      t.h = s.h ++ [.port (.inst n) (.isBusy (s.ctl (s.seq n).ctlid).busy)] ∧ s.SameCtls t ∧ s.SameMemory t ∧
      t.mh = s.mh ∧ t.hh = s.hh ∧
      ((s.ctl (s.seq n).ctlid).busy = false →
        t.seq n = { s.seq n with st := next, i := if st = .wsPoll then 1 else (s.seq n).i }) ∧
      ((s.ctl (s.seq n).ctlid).busy = true →
        ((∃ k, s.cfg.busyTimeout = some k ∧ k ≤ (s.seq n).tc.toNat + 1) →
          t.seq n = { s.seq n with st := .doneFail, cause := .timeout }) ∧
        ((∀ k, s.cfg.busyTimeout = some k → (s.seq n).tc.toNat + 1 < k) →
          ∃ c, t.seq n = { s.seq n with tc := c } ∧ ((s.seq n).tc.toNat + 1 < 2 ^ 32 → c = (s.seq n).tc + 1)))

/-- The error-check states (rules R146, R153, R162, R167, R172, R188): the status read, that of an idle controller where it is
known, decides: `error` aborts with `BUS_ERROR`, else the sequencer goes on as its rule says. The registers fit together, as the
invariant has it, so that `S.I + 1` is in range. -/
def Obligations.ErrorCheckStates : Prop :=
  ∀ (n : Nat) (s : State) (st next : St),
    (st, next) ∈ ([(.w1Err, if (s.seq n).rn = 0 then .doneOk else .rphase),
      (.wmErr, if (s.seq n).i.toNat + 1 + 2 ≤ (s.seq n).wn.toNat then .wmSa else .wfSa),
      (.wfErr, if (s.seq n).rn = 0 then .doneOk else .rphase), (.r1Err, .r1Get), (.rpErr, .doneOk)] : List (St × St)) →
    (s.seq n).st = st → (s.seq n).Consistent →
    ∃ (t : State) (e : BusErr), seqStep n s = .next t ∧ t.h = s.h ++ [.port (.inst n) (.getError e)] ∧ s.SameCtls t ∧
      s.SameMemory t ∧ t.mh = s.mh ∧ t.hh = s.hh ∧
      (∀ d, (s.ctl (s.seq n).ctlid).busy = false → (s.ctl (s.seq n).ctlid).err = some d → e = d) ∧
      (e = .error → t.seq n = { s.seq n with st := .doneFail, cause := .busError }) ∧
      (e = .none →
        t.seq n = { s.seq n with st := next, i := if st = .wmErr then (s.seq n).i + 1 else (s.seq n).i })

/-- The pull states (rules R173, R177, R181, R185): the byte read, that of the data register where it is known, goes to the
state's address and to no other. A write that is part of a race (rule R77, decision D21; log entries 11 and 24) leaves any byte
there. `S.RN − 1` at a count of 0 and `S.I + 1` at 2^32 − 1, which no run reaches, are the model's choice (log entry 21). -/
def Obligations.PullStates : Prop :=
  ∀ (n : Nat) (s : State) (st next : St) (i : Nat),
    (st, i, next) ∈ ([(.r1Get, 0, .doneOk), (.rsGet, 0, if 3 ≤ (s.seq n).rn.toNat then .rmSa else .rfSa),
      (.rmGet, (s.seq n).i.toNat, if (s.seq n).i.toNat + 1 + 2 ≤ (s.seq n).rn.toNat then .rmSa else .rfSa),
      (.rfGet, (s.seq n).rn.toNat - 1, .rpCmd)] : List (St × Nat × St)) →
    (s.seq n).st = st → s.admits .write ((s.seq n).rp.toNat + i) = true →
    ∃ (t : State) (b : Byte), seqStep n s = .next t ∧ t.h = s.h ++ [.port (.inst n) (.getData b)] ∧ s.SameCtls t ∧
      t.hh = s.hh ∧
      (∀ d, (s.ctl (s.seq n).ctlid).busy = false → (s.ctl (s.seq n).ctlid).data = some d → b = d) ∧
      (s.writeRaces (some n) ((s.seq n).rp.toNat + i) = false → t.byteAt ((s.seq n).rp.toNat + i) = b) ∧
      (s.writeRaces (some n) ((s.seq n).rp.toNat + i) = true →
        ∃ k, s.draws ≤ k ∧ t.byteAt ((s.seq n).rp.toNat + i) = Config.freeByte k) ∧
      (∀ a, a ≠ (s.seq n).rp.toNat + i → t.byteAt a = s.byteAt a) ∧
      t.mh = s.mh ++ [⟨n, .write, (s.seq n).rp.toNat + i, b⟩] ∧
      t.seq n =
        { s.seq n with
          st := next
          i := if st = .rsGet then 1 else if st = .rmGet then (s.seq n).i + 1 else (s.seq n).i }

/-- Rule R143, `CHECK`, and rule R168, `RPHASE`: the first phase and the read path by the counts alone, with no port operation. -/
def Obligations.CheckChoosesPhase : Prop :=
  ∀ (n : Nat) (s : State),
    ((s.seq n).st = .check →
      ∃ t, seqStep n s = .next t ∧ t.h = s.h ∧ t.mh = s.mh ∧
        ((s.seq n).wn = 0 → (s.seq n).rn = 0 → t.seq n = { s.seq n with cause := .malformed, st := .doneFail }) ∧
        ((s.seq n).wn = 1 → t.seq n = { s.seq n with st := .w1Sa }) ∧
        (2 ≤ (s.seq n).wn.toNat → t.seq n = { s.seq n with st := .wsSa }) ∧
        ((s.seq n).wn = 0 → (s.seq n).rn ≠ 0 → t.seq n = { s.seq n with st := .rphase })) ∧
    ((s.seq n).st = .rphase →
      ∃ t, seqStep n s = .next t ∧ t.h = s.h ∧ t.mh = s.mh ∧
        ((s.seq n).rn = 1 → t.seq n = { s.seq n with st := .r1Sa }) ∧
        (2 ≤ (s.seq n).rn.toNat → t.seq n = { s.seq n with st := .rsSa }) ∧
        ((s.seq n).rn = 0 → t.seq n = { s.seq n with st := .doneOk }))

/-- Rules R147 and R148 for a host's transfer: `DONE_OK` and `DONE_FAIL` perform no port operation and no memory access, and
complete the request. -/
def Obligations.TransferCompletes : Prop :=
  ∀ (n : Nat) (s : State), (s.seq n).mode = .xfer →
    ((s.seq n).st = .doneOk →
      ∃ t, seqStep n s = .next t ∧ t.h = s.h ∧ t.mh = s.mh ∧ t.hh = s.hh ++ [.done n true] ∧
        t.seq n =
          { s.seq n with xok := true, cause := .none, result := some true, mode := .none, st := .idle }) ∧
    ((s.seq n).st = .doneFail →
      ∃ t, seqStep n s = .next t ∧ t.h = s.h ∧ t.mh = s.mh ∧ t.hh = s.hh ++ [.done n false] ∧
        t.seq n = { s.seq n with xok := false, result := some false, mode := .none, st := .idle })

/-- Rule R195: the same states inside a `READ_IDENTITY` write `S.XOK` and go on to the refill or to the next stage; the result
and the host history stay. -/
def Obligations.IdentityContinues : Prop :=
  ∀ (n : Nat) (s : State), (s.seq n).mode = .ident →
    ((s.seq n).st = .doneOk →
      ∃ t, seqStep n s = .next t ∧ t.h = s.h ∧ t.mh = s.mh ∧ t.hh = s.hh ∧
        t.seq n =
          { s.seq n with xok := true, cause := .none, st := if (s.seq n).idstg = .sn then .idMac else .idEnd }) ∧
    ((s.seq n).st = .doneFail →
      ∃ t, seqStep n s = .next t ∧ t.h = s.h ∧ t.mh = s.mh ∧ t.hh = s.hh ∧
        (s.cfg.refillOnFailure = true →
          t.seq n =
            { s.seq n with xok := false, j := 0, st := if (s.seq n).idstg = .sn then .idRefillSn else .idRefillMac }) ∧
        (s.cfg.refillOnFailure = false →
          t.seq n = { s.seq n with xok := false, st := if (s.seq n).idstg = .sn then .idMac else .idEnd }))

/-- Rules R193, R196 and R198: each sentinel step writes the sentinel to one output byte and to no other, and goes on with the
index or to the next state. That a step on a byte which memory refuses changes nothing is the model's reading of a sequencer that
has no step (rule R65, log entry 9). A write that is part of a race (rule R77, decision D21; log entries 11 and 24) leaves any byte
there. `S.J + 1` at 31, which no run reaches, is the model's choice (log entry 21). -/
def Obligations.SentinelStates : Prop :=
  ∀ (n : Nat) (s : State) (st next : St) (a last : Nat),
    (st, a, last, next) ∈
      ([(.idFill, if (s.seq n).j.toNat < 16 then (s.seq n).snp.toNat + (s.seq n).j.toNat
          else (s.seq n).macp.toNat + ((s.seq n).j.toNat - 16), 21, .idSn),
        (.idRefillSn, (s.seq n).snp.toNat + (s.seq n).j.toNat, 15, .idMac),
        (.idRefillMac, (s.seq n).macp.toNat + (s.seq n).j.toNat, 5, .idEnd)] : List (St × Nat × Nat × St)) →
    (s.seq n).st = st →
    (s.admits .write a = false → seqStep n s = .next s) ∧
    (s.admits .write a = true →
      ∃ t, seqStep n s = .next t ∧ (s.writeRaces (some n) a = false → t.byteAt a = s.cfg.sentinel) ∧
        (s.writeRaces (some n) a = true → t.byteAt a = Config.freeByte s.draws) ∧ (∀ c, c ≠ a → t.byteAt c = s.byteAt c) ∧
        t.mh = s.mh ++ [⟨n, .write, a, s.cfg.sentinel⟩] ∧ t.h = s.h ∧ t.hh = s.hh ∧ s.SameCtls t ∧
        t.seq n =
          (if (s.seq n).j.toNat = last then { s.seq n with st := next } else { s.seq n with j := (s.seq n).j + 1 }))

/-- Rules R194, R197 and R199: the two transactions the Identity Reader sets up, and its end with the MAC transfer's result. -/
def Obligations.IdentityTransactions : Prop :=
  ∀ (n : Nat) (s : State),
    ((s.seq n).st = .idSn →
      ∃ t, seqStep n s = .next t ∧ t.h = s.h ∧ t.mh = s.mh ∧
        t.seq n =
          { s.seq n with
            idstg := .sn, sa := s.cfg.idSlaveAddr, wsrc := .const, wk := s.cfg.snWordAddr, wn := 1,
            rp := (s.seq n).snp, rn := s.cfg.snLen, st := .check }) ∧
    ((s.seq n).st = .idMac →
      ∃ t, seqStep n s = .next t ∧ t.h = s.h ∧ t.mh = s.mh ∧
        t.seq n =
          { s.seq n with
            idstg := .mac, sa := s.cfg.macSlaveAddr, wsrc := .const, wk := s.cfg.macWordAddr, wn := 1,
            rp := (s.seq n).macp, rn := s.cfg.macLen, st := .check }) ∧
    ((s.seq n).st = .idEnd →
      ∃ t, seqStep n s = .next t ∧ t.h = s.h ∧ t.mh = s.mh ∧ t.hh = s.hh ++ [.done n (s.seq n).xok] ∧
        t.seq n = { s.seq n with result := some (s.seq n).xok, mode := .none, st := .idle })

/-- Rules R65 and R66: where memory refuses the byte a step stores or loads, as it does every address above 2^AW − 1, the
sequencer has no step. That its turn then changes nothing is the model's reading (log entry 9). -/
def Obligations.RefusedAccessIsStuck : Prop :=
  ∀ (n a : Nat) (s : State),
    (s.storeTarget n = some a → s.admits .write a = false → seqStep n s = .next s) ∧
    (s.loadTarget n = some a → s.admits .read a = false → seqStep n s = .next s) ∧
    (2 ^ s.cfg.aw ≤ a → s.admits .read a = false ∧ s.admits .write a = false)

/-! ## Runs -/

/-- Rule R226: a busy-wait on a controller that does not complete never ends. Whatever turn comes, of whatever agent, if it is
neither that controller's completion nor a reset, the sequencer stays in its state and the wait goes on; and after any number of
its own steps it is there still, having polled that often. -/
def Obligations.BusyWaitHangs : Prop :=
  (∀ (n : Nat) (s t : State), (s.seq n).st.isPoll = true → (s.ctl (s.seq n).ctlid).busy = true → s.cfg.busyTimeout = none →
    (∀ e d, s.nextTurn ≠ .complete (s.seq n).ctlid e d) → (∀ ds, s.nextTurn ≠ .reset ds) → step s = .next t →
    (t.seq n).st = (s.seq n).st ∧ (t.seq n).ctlid = (s.seq n).ctlid ∧ (t.seq n).result = (s.seq n).result ∧
      (t.ctl (s.seq n).ctlid).busy = true ∧ t.cfg = s.cfg) ∧
  ∀ (k n : Nat) (s : State), (s.seq n).st.isPoll = true → (s.ctl (s.seq n).ctlid).busy = true →
    s.cfg.busyTimeout = none →
    ∃ t : State, Host.Core.run Sys2Proof.core k { s with env := List.replicate k (.seq n) ++ s.env } = .next t ∧
      (t.seq n).st = (s.seq n).st ∧ t.h = s.h ++ List.replicate k (.port (.inst n) (.isBusy true)) ∧
      t.hh = s.hh ∧ t.mh = s.mh ∧ t.env = s.env

/-- Rules R127 and R214: with `BUSY_TIMEOUT = some k` exactly the k-th consecutive busy poll aborts with `TIMEOUT`. -/
def Obligations.TimeoutAbortsAtKthPoll : Prop :=
  ∀ (k n j : Nat) (s : State), (s.seq n).st.isPoll = true → (s.ctl (s.seq n).ctlid).busy = true →
    s.cfg.busyTimeout = some k → 1 ≤ k → k < 2 ^ 32 → (s.seq n).tc = 0 → j ≤ k →
    ∃ t : State, Host.Core.run Sys2Proof.core j { s with env := List.replicate j (.seq n) ++ s.env } = .next t ∧
      t.h = s.h ++ List.replicate j (.port (.inst n) (.isBusy true)) ∧
      (j < k → (t.seq n).st = (s.seq n).st ∧ (t.seq n).tc = BitVec.ofNat 32 j) ∧
      (j = k → (t.seq n).st = .doneFail ∧ (t.seq n).cause = .timeout)

/-- Rule R252: a request in progress completes. First in every run that goes on without fault, whose sequencer is weakly fair and
whose controller completes every command (`ctl_completes`), the machine meeting the invariant, the buffers admitted and nothing
else driving the port. Then with a bound: a number of rounds that depends on the state alone is enough, whatever the draws and
whatever the other agents do. -/
def Obligations.RequestCompletesUnderProgress : Prop :=
  (∀ (n : Nat) (turn : Nat → Turn) (state : Nat → State), IsRun turn state → (state 0).Inv → (state 0).RequestAdmitted n →
    (∀ i h w, turn i ≠ .drive h w) → WeaklyFair n turn state → CtlCompletes ((state 0).seq n).ctlid state →
    ∃ i, ((state i).seq n).st = .idle) ∧
  ∀ (n : Nat) (s : State), s.Inv → (s.seq n).st ≠ .idle → s.RequestAdmitted n →
    ∃ K : Nat, ∀ (rounds : List (List Turn)) (t : State), K ≤ rounds.length →
      (∀ r ∈ rounds, servesRound n (s.seq n).ctlid r) → undriven rounds.flatten →
      Host.Core.run Sys2Proof.core rounds.flatten.length { s with env := rounds.flatten ++ s.env } = .next t →
      ∃ (j : Nat) (u : State), j ≤ rounds.flatten.length ∧
        Host.Core.run Sys2Proof.core j { s with env := rounds.flatten ++ s.env } = .next u ∧ (u.seq n).st = .idle

/-- Rules R143, R147, R189 item 1 and R212: a `TRANSFER` with both counts zero, accepted and run to its end, gives result 0 with
`MALFORMED`; neither the port nor memory is touched. -/
def Obligations.MalformedTransferFails : Prop :=
  ∀ (n : Nat) (sa : SlaveAddr) (wp rp : Word) (s : State) (rest : List Turn),
    n < s.cfg.ninst → (s.seq n).st = .idle → (s.seq n).bound = true → s.sharedActive n = false →
    s.env = .submit n [headerWord 0x2 sa, wp, 0, rp, 0] :: .seq n :: .seq n :: rest →
    ∃ t : State, Host.Core.run Sys2Proof.core 3 s = .next t ∧ (t.seq n).st = .idle ∧ (t.seq n).result = some false ∧
      (t.seq n).cause = .malformed ∧ t.hh = s.hh ++ [.done n false] ∧ t.h = s.h ∧ t.mh = s.mh ∧ s.SameMemory t

/-- Rule R141: under the eager schedule, whatever the completions draw, the FSM performs exactly the port operations and exactly
the memory operations of the reference `Transfer()`, each in its order, and ends as it does. Other requests may be in progress, on
other controllers and buffers. No access to the buffers is part of a race (rule R77). -/
def Obligations.EagerTransferFollowsReference : Prop :=
  ∀ (n : Nat) (s : State) (ds : List (BusErr × Byte)),
    let q := s.seq n
    let ref := refTransfer q.sa (s.writeBytes n) q.rp.toNat q.rn.toNat ds
    q.st = .check → s.CtlQuiet q.ctlid → s.cfg.busyTimeout = none →
    (q.wsrc = .mem → s.Admitted .read q.wp.toNat q.wn.toNat ∧ s.NoReadRace n q.wp.toNat q.wn.toNat) →
    s.Admitted .write q.rp.toNat q.rn.toNat → s.NoWriteRace n q.rp.toNat q.rn.toNat →
    ∃ (k : Nat) (t : State), eagerRun k n ds s = .next t ∧
      portOps t.h = portOps s.h ++ ref.trace.map TraceItem.eager ∧
      t.mh = s.mh ++ readEvents n q (tracePuts ref.trace) ++ writeEvents n ref.stored ∧
      (∀ a, t.byteAt a = (storeAll ref.stored s).byteAt a) ∧
      (ref.ending = .success → (t.seq n).st = .doneOk ∧ t.CtlQuiet q.ctlid) ∧
      (∀ c, ref.ending = .abort c → (t.seq n).st = .doneFail ∧ (t.seq n).cause = c ∧ t.CtlQuiet q.ctlid) ∧
      (ref.ending = .hang → (t.seq n).st.isPoll = true ∧ (t.ctl q.ctlid).busy = true)

/-- Rule R191: under the eager schedule an identity read, from `ID_FILL` on, performs exactly the port operations and exactly the
memory operations of the reference `ReadIdentity`, each in its order, and completes with its result. No write to the
outputs is part of a race (rule R77). -/
def Obligations.EagerIdentityFollowsReference : Prop :=
  ∀ (n : Nat) (s : State) (ds : List (BusErr × Byte)),
    let q := s.seq n
    let ref := refIdentity s.cfg q.snp.toNat q.macp.toNat ds
    q.st = .idFill → q.j = 0 → q.mode = .ident → s.CtlQuiet q.ctlid → s.cfg.busyTimeout = none →
    s.Admitted .write q.snp.toNat (max 16 s.cfg.snLen.toNat) → s.Admitted .write q.macp.toNat (max 6 s.cfg.macLen.toNat) →
    s.NoWriteRace n q.snp.toNat (max 16 s.cfg.snLen.toNat) → s.NoWriteRace n q.macp.toNat (max 6 s.cfg.macLen.toNat) →
    ∃ (k : Nat) (t : State), eagerRun k n ds s = .next t ∧
      portOps t.h = portOps s.h ++ ref.trace.map TraceItem.eager ∧
      t.mh = s.mh ++ writeEvents n ref.stored ∧
      (∀ a, t.byteAt a = (storeAll ref.stored s).byteAt a) ∧
      (∀ b, ref.result = some b → (t.seq n).st = .idle ∧ (t.seq n).result = some b ∧ t.hh = s.hh ++ [.done n b]) ∧
      (ref.result = none → (t.seq n).st.isPoll = true ∧ (t.ctl q.ctlid).busy = true ∧ t.hh = s.hh)

/-- Rule R189 item 2: a write phase that does not abort, which is one whose checked completions draw no error, performs one
address-set for write and one load per byte, in order, one check per checked step, and the commands of its count. The completion of
the start of a burst is not checked, and may draw an error. -/
def Obligations.WritePhaseCounts : Prop :=
  ∀ (sa : SlaveAddr) (bytes : List Byte) (ds : List (BusErr × Byte)), bytes ≠ [] → bytes.length ≤ ds.length →
    (∀ d ∈ (ds.take bytes.length).drop (if bytes.length = 1 then 0 else 1), d.1 = .none) →
    let r := refWrite sa bytes ds
    r.ending = .success ∧ r.rest = ds.drop bytes.length ∧ r.stored = [] ∧ tracePuts r.trace = bytes ∧
    traceAddresses r.trace = List.replicate bytes.length (sa, .write) ∧
    traceChecks r.trace = List.replicate (max 1 (bytes.length - 1)) .none ∧
    (bytes.length = 1 → traceCommands r.trace = [.singleSend]) ∧
    (2 ≤ bytes.length →
      traceCommands r.trace =
        .burstSendStart :: (List.replicate (bytes.length - 2) .burstSendContinue ++ [.burstSendFinish]))

/-- Rule R189 item 3: a read phase that does not abort, which is one whose last completion draws no error, performs one address-set
for read and one pull per byte, exactly one check, the commands of its count with the closing stop, and stores the bytes drawn by
its receive completions in order. The completions of the bytes of a burst are not checked, and may draw errors. -/
def Obligations.ReadPhaseCounts : Prop :=
  ∀ (sa : SlaveAddr) (a rn : Nat) (ds : List (BusErr × Byte)),
    let used := if rn = 1 then 1 else rn + 1
    1 ≤ rn → used ≤ ds.length → (∀ d ∈ (ds.take used).drop (used - 1), d.1 = .none) →
    let r := refRead sa a rn ds
    let got := (ds.take rn).map Prod.snd
    r.ending = .success ∧ r.rest = ds.drop used ∧ traceGets r.trace = got ∧
    r.stored = ((List.range rn).map (fun i => a + i)).zip got ∧
    traceAddresses r.trace = List.replicate rn (sa, .read) ∧ traceChecks r.trace = [.none] ∧
    (rn = 1 → traceCommands r.trace = [.singleReceiveNack]) ∧
    (2 ≤ rn →
      traceCommands r.trace =
        .burstReceiveStart :: (List.replicate (rn - 2) .burstReceiveContinue ++ [.burstReceiveFinish, .burstReceiveStop]))

/-- Rule R200, the outcome table, for outputs that do not overlap: each output holds what its own transfer received, or the
sentinel where that transfer failed, and the result is the MAC transfer's alone. -/
def Obligations.IdentityOutcomeTable : Prop :=
  ∀ (p : Params) (snp macp : Nat) (ds : List (BusErr × Byte)) (s : State),
    p.snLen = 16 → p.macLen = 6 → p.refillOnFailure = true → snp + 16 ≤ macp ∨ macp + 6 ≤ snp →
    let sn := refTransfer p.idSlaveAddr [p.snWordAddr] snp 16 ds
    let mac := refTransfer p.macSlaveAddr [p.macWordAddr] macp 6 sn.rest
    let ref := refIdentity p snp macp ds
    let t := storeAll ref.stored s
    sn.ending ≠ .hang → mac.ending ≠ .hang →
    ref.result = some (mac.ending == .success) ∧
    (sn.ending = .success → ∀ i, i < 16 → some (t.byteAt (snp + i)) = (traceGets sn.trace)[i]?) ∧
    (sn.ending ≠ .success → ∀ i, i < 16 → t.byteAt (snp + i) = p.sentinel) ∧
    (mac.ending = .success → ∀ i, i < 6 → some (t.byteAt (macp + i)) = (traceGets mac.trace)[i]?) ∧
    (mac.ending ≠ .success → ∀ i, i < 6 → t.byteAt (macp + i) = p.sentinel)
end

