-- ==== Sys2Proof/Laws/Sparse.lean ====
section
/-! SUPPORT. The laws of the sparse tables: what a key holds after a write, and that every write keeps the canonical form. -/

namespace Sys2Proof.Machine

variable {α : Type}

theorem Sparse.get_erase (d : α) (m : List (Nat × α)) (k j : Nat) :
    Sparse.get d (Sparse.erase m k) j = if j = k then d else Sparse.get d m j := by
  induction m with
  | nil => simp [Sparse.erase, Sparse.get]
  | cons p t ih =>
    obtain ⟨a, v⟩ := p
    simp only [Sparse.erase, Sparse.get]
    split_ifs <;> simp_all [Sparse.get]

theorem Sparse.get_insert_self (d : α) (m : List (Nat × α)) (k : Nat) (v : α)
    (h : ∀ p ∈ m, p.1 ≠ k) : Sparse.get d (Sparse.insert m k v) k = v := by
  induction m with
  | nil => simp [Sparse.insert, Sparse.get]
  | cons p t ih =>
    obtain ⟨a, w⟩ := p
    have ha : a ≠ k := h (a, w) (by simp)
    have ht := ih (fun q hq => h q (by simp [hq]))
    simp only [Sparse.insert]
    split_ifs <;> simp [Sparse.get, ha, ht]

theorem Sparse.get_insert_ne (d : α) (m : List (Nat × α)) (k j : Nat) (v : α) (h : j ≠ k) :
    Sparse.get d (Sparse.insert m k v) j = Sparse.get d m j := by
  induction m with
  | nil => simp [Sparse.insert, Sparse.get, Ne.symm h]
  | cons p t ih =>
    obtain ⟨a, w⟩ := p
    simp only [Sparse.insert]
    split_ifs <;> simp [Sparse.get, Ne.symm h, ih]

theorem Sparse.erase_no_key (m : List (Nat × α)) (k : Nat) : ∀ p ∈ Sparse.erase m k, p.1 ≠ k := by
  induction m with
  | nil => simp [Sparse.erase]
  | cons p t ih =>
    obtain ⟨a, v⟩ := p
    simp only [Sparse.erase]
    split_ifs with h
    · exact ih
    · intro q hq
      rcases List.mem_cons.1 hq with rfl | hq
      · exact h
      · exact ih q hq

/-- A key holds what was written to it, and every other key what it held: for every table, canonical or not. -/
@[simp] theorem Sparse.get_put [DecidableEq α] (d : α) (m : List (Nat × α)) (k j : Nat) (v : α) :
    Sparse.get d (Sparse.put d m k v) j = if j = k then v else Sparse.get d m j := by
  unfold Sparse.put
  by_cases hv : v = d
  · simp [hv, Sparse.get_erase]
  · simp only [if_neg hv]
    by_cases hj : j = k
    · subst hj
      simp [Sparse.get_insert_self d _ j v (Sparse.erase_no_key m j)]
    · simp [hj, Sparse.get_insert_ne d _ k j v hj, Sparse.get_erase]

theorem Sparse.wfFrom_mono [DecidableEq α] (d : α) (m : List (Nat × α)) {lo lo' : Nat} (h : lo' ≤ lo)
    (hw : Sparse.wfFrom d lo m = true) : Sparse.wfFrom d lo' m = true := by
  cases m with
  | nil => rfl
  | cons p t =>
    obtain ⟨a, v⟩ := p
    simp only [Sparse.wfFrom, Bool.and_eq_true, decide_eq_true_eq] at hw ⊢
    exact ⟨⟨by omega, hw.1.2⟩, hw.2⟩

theorem Sparse.wfFrom_erase [DecidableEq α] (d : α) (m : List (Nat × α)) (k : Nat) :
    ∀ lo, Sparse.wfFrom d lo m = true → Sparse.wfFrom d lo (Sparse.erase m k) = true := by
  induction m with
  | nil => intro lo _; rfl
  | cons p t ih =>
    obtain ⟨a, v⟩ := p
    intro lo h
    simp only [Sparse.wfFrom, Bool.and_eq_true, decide_eq_true_eq] at h
    simp only [Sparse.erase]
    split_ifs
    · exact Sparse.wfFrom_mono d _ (by omega) (ih _ h.2)
    · simp only [Sparse.wfFrom, Bool.and_eq_true, decide_eq_true_eq]
      exact ⟨h.1, ih _ h.2⟩

theorem Sparse.wfFrom_insert [DecidableEq α] (d : α) (m : List (Nat × α)) (k : Nat) (v : α) (hv : v ≠ d) :
    ∀ lo, lo ≤ k → (∀ p ∈ m, p.1 ≠ k) → Sparse.wfFrom d lo m = true →
      Sparse.wfFrom d lo (Sparse.insert m k v) = true := by
  induction m with
  | nil => intro lo hl _ _; simp [Sparse.insert, Sparse.wfFrom, hl, hv]
  | cons p t ih =>
    obtain ⟨a, w⟩ := p
    intro lo hl hk h
    have ha : a ≠ k := hk (a, w) (by simp)
    simp only [Sparse.wfFrom, Bool.and_eq_true, decide_eq_true_eq] at h
    simp only [Sparse.insert]
    split_ifs with hlt
    · simp only [Sparse.wfFrom, Bool.and_eq_true, decide_eq_true_eq]
      exact ⟨⟨hl, hv⟩, ⟨by omega, h.1.2⟩, h.2⟩
    · simp only [Sparse.wfFrom, Bool.and_eq_true, decide_eq_true_eq]
      exact ⟨h.1, ih _ (by omega) (fun q hq => hk q (by simp [hq])) h.2⟩

/-- A write keeps the canonical form. -/
theorem Sparse.wf_put [DecidableEq α] (d : α) (m : List (Nat × α)) (k : Nat) (v : α)
    (h : Sparse.wf d m = true) : Sparse.wf d (Sparse.put d m k v) = true := by
  unfold Sparse.put
  split_ifs with hv
  · exact Sparse.wfFrom_erase d m k 0 h
  · exact Sparse.wfFrom_insert d _ k v hv 0 (Nat.zero_le _) (Sparse.erase_no_key m k) (Sparse.wfFrom_erase d m k 0 h)

theorem Sparse.erase_of_no_key (m : List (Nat × α)) (k : Nat) (h : ∀ p ∈ m, p.1 ≠ k) : Sparse.erase m k = m := by
  induction m with
  | nil => rfl
  | cons p t ih =>
    obtain ⟨a, v⟩ := p
    simp [Sparse.erase, h (a, v) (by simp), ih (fun q hq => h q (by simp [hq]))]

theorem Sparse.erase_insert (m : List (Nat × α)) (k : Nat) (v : α) (h : ∀ p ∈ m, p.1 ≠ k) :
    Sparse.erase (Sparse.insert m k v) k = m := by
  induction m with
  | nil => simp [Sparse.insert, Sparse.erase]
  | cons p t ih =>
    obtain ⟨a, w⟩ := p
    have ha : a ≠ k := h (a, w) (by simp)
    have ht : ∀ q ∈ t, q.1 ≠ k := fun q hq => h q (by simp [hq])
    simp only [Sparse.insert]
    split_ifs
    · simp [Sparse.erase, ha, Sparse.erase_of_no_key t k ht]
    · simp [Sparse.erase, ha, ih ht]

/-- The last write of a key counts. -/
@[simp] theorem Sparse.put_put [DecidableEq α] (d : α) (m : List (Nat × α)) (k : Nat) (v w : α) :
    Sparse.put d (Sparse.put d m k v) k w = Sparse.put d m k w := by
  have h : Sparse.erase (Sparse.put d m k v) k = Sparse.erase m k := by
    unfold Sparse.put
    split_ifs
    · exact Sparse.erase_of_no_key _ k (Sparse.erase_no_key m k)
    · exact Sparse.erase_insert _ k v (Sparse.erase_no_key m k)
  rw [Sparse.put, h]
  rfl

/-- An unlisted key holds `d`. -/
theorem Sparse.get_of_not_mem (d : α) (m : List (Nat × α)) (k : Nat) (h : ∀ p ∈ m, p.1 ≠ k) :
    Sparse.get d m k = d := by
  induction m with
  | nil => rfl
  | cons p t ih =>
    obtain ⟨a, v⟩ := p
    simp [Sparse.get, h (a, v) (by simp), ih (fun q hq => h q (by simp [hq]))]

/-- A key below every listed key holds `d`. -/
theorem Sparse.get_of_lt [DecidableEq α] (d : α) (m : List (Nat × α)) :
    ∀ lo k, Sparse.wfFrom d lo m = true → k < lo → Sparse.get d m k = d := by
  induction m with
  | nil => intros; rfl
  | cons p t ih =>
    obtain ⟨a, v⟩ := p
    intro lo k h hk
    simp only [Sparse.wfFrom, Bool.and_eq_true, decide_eq_true_eq] at h
    have : a ≠ k := by omega
    simp [Sparse.get, this, ih (a + 1) k h.2 (by omega)]

/-- Equal contents in canonical form are equal data. -/
theorem Sparse.ext_of_wf [DecidableEq α] (d : α) (m : List (Nat × α)) :
    ∀ lo m', Sparse.wfFrom d lo m = true → Sparse.wfFrom d lo m' = true →
      (∀ k, Sparse.get d m k = Sparse.get d m' k) → m = m' := by
  induction m with
  | nil =>
    intro lo m' _ h' he
    cases m' with
    | nil => rfl
    | cons p t =>
      obtain ⟨a, v⟩ := p
      simp only [Sparse.wfFrom, Bool.and_eq_true, decide_eq_true_eq] at h'
      have := he a
      simp only [Sparse.get, if_true] at this
      exact absurd this.symm h'.1.2
  | cons p t ih =>
    obtain ⟨a, v⟩ := p
    intro lo m' h h' he
    simp only [Sparse.wfFrom, Bool.and_eq_true, decide_eq_true_eq] at h
    cases m' with
    | nil =>
      have := he a
      simp only [Sparse.get, if_true] at this
      exact absurd this h.1.2
    | cons q t' =>
      obtain ⟨b, w⟩ := q
      simp only [Sparse.wfFrom, Bool.and_eq_true, decide_eq_true_eq] at h'
      have hab : a = b := by
        rcases Nat.lt_trichotomy a b with hl | he' | hl
        · have hg := he a
          have hn : b ≠ a := by omega
          simp only [Sparse.get, if_true, if_neg hn] at hg
          exact absurd (hg.trans (Sparse.get_of_lt d t' (b + 1) a h'.2 (by omega))) h.1.2
        · exact he'
        · have hg := he b
          have hn : a ≠ b := by omega
          simp only [Sparse.get, if_true, if_neg hn] at hg
          exact absurd (hg.symm.trans (Sparse.get_of_lt d t (a + 1) b h.2 (by omega))) h'.1.2
      subst hab
      have hvw : v = w := by simpa [Sparse.get] using he a
      subst hvw
      rw [ih (a + 1) t' h.2 h'.2]
      intro k
      by_cases hk : a = k
      · subst hk
        rw [Sparse.get_of_lt d t (a + 1) a h.2 (by omega), Sparse.get_of_lt d t' (a + 1) a h'.2 (by omega)]
      · simpa [Sparse.get, hk] using he k

end Sys2Proof.Machine
end

