-- ==== Sys2Proof/Laws/State.lean ====
section
/-! SUPPORT. One lemma per field per update of the state, and what the accessors read after each update. -/

namespace Sys2Proof.Machine

variable (s : State)

@[simp] theorem State.cfg_setSeq (n : Nat) (q : Sequencer) : (s.setSeq n q).cfg = s.cfg := rfl
@[simp] theorem State.seqs_setSeq (n : Nat) (q : Sequencer) : (s.setSeq n q).seqs = Sparse.put Sequencer.reset s.seqs n q := rfl
@[simp] theorem State.ctls_setSeq (n : Nat) (q : Sequencer) : (s.setSeq n q).ctls = s.ctls := rfl
@[simp] theorem State.mem_setSeq (n : Nat) (q : Sequencer) : (s.setSeq n q).mem = s.mem := rfl
@[simp] theorem State.admission_setSeq (n : Nat) (q : Sequencer) : (s.setSeq n q).admission = s.admission := rfl
@[simp] theorem State.h_setSeq (n : Nat) (q : Sequencer) : (s.setSeq n q).h = s.h := rfl
@[simp] theorem State.mh_setSeq (n : Nat) (q : Sequencer) : (s.setSeq n q).mh = s.mh := rfl
@[simp] theorem State.hh_setSeq (n : Nat) (q : Sequencer) : (s.setSeq n q).hh = s.hh := rfl
@[simp] theorem State.env_setSeq (n : Nat) (q : Sequencer) : (s.setSeq n q).env = s.env := rfl
@[simp] theorem State.draws_setSeq (n : Nat) (q : Sequencer) : (s.setSeq n q).draws = s.draws := rfl
@[simp] theorem State.selInst_setSeq (n : Nat) (q : Sequencer) : (s.setSeq n q).selInst = s.selInst := rfl
@[simp] theorem State.portBy_setSeq (n : Nat) (q : Sequencer) : (s.setSeq n q).portBy = s.portBy := rfl
@[simp] theorem State.obs_setSeq (n : Nat) (q : Sequencer) : (s.setSeq n q).obs = s.obs := rfl
@[simp] theorem State.raced_setSeq (n : Nat) (q : Sequencer) : (s.setSeq n q).raced = s.raced := rfl

@[simp] theorem State.cfg_setCtl (h : Handle) (k : Controller) : (s.setCtl h k).cfg = s.cfg := rfl
@[simp] theorem State.seqs_setCtl (h : Handle) (k : Controller) : (s.setCtl h k).seqs = s.seqs := rfl
@[simp] theorem State.ctls_setCtl (h : Handle) (k : Controller) : (s.setCtl h k).ctls = Sparse.put Controller.reset s.ctls h.toNat k := rfl
@[simp] theorem State.mem_setCtl (h : Handle) (k : Controller) : (s.setCtl h k).mem = s.mem := rfl
@[simp] theorem State.admission_setCtl (h : Handle) (k : Controller) : (s.setCtl h k).admission = s.admission := rfl
@[simp] theorem State.h_setCtl (h : Handle) (k : Controller) : (s.setCtl h k).h = s.h := rfl
@[simp] theorem State.mh_setCtl (h : Handle) (k : Controller) : (s.setCtl h k).mh = s.mh := rfl
@[simp] theorem State.hh_setCtl (h : Handle) (k : Controller) : (s.setCtl h k).hh = s.hh := rfl
@[simp] theorem State.env_setCtl (h : Handle) (k : Controller) : (s.setCtl h k).env = s.env := rfl
@[simp] theorem State.draws_setCtl (h : Handle) (k : Controller) : (s.setCtl h k).draws = s.draws := rfl
@[simp] theorem State.selInst_setCtl (h : Handle) (k : Controller) : (s.setCtl h k).selInst = s.selInst := rfl
@[simp] theorem State.portBy_setCtl (h : Handle) (k : Controller) : (s.setCtl h k).portBy = s.portBy := rfl
@[simp] theorem State.obs_setCtl (h : Handle) (k : Controller) : (s.setCtl h k).obs = s.obs := rfl
@[simp] theorem State.raced_setCtl (h : Handle) (k : Controller) : (s.setCtl h k).raced = s.raced := rfl

@[simp] theorem State.cfg_setByte (a : Nat) (b : Byte) : (s.setByte a b).cfg = s.cfg := rfl
@[simp] theorem State.seqs_setByte (a : Nat) (b : Byte) : (s.setByte a b).seqs = s.seqs := rfl
@[simp] theorem State.ctls_setByte (a : Nat) (b : Byte) : (s.setByte a b).ctls = s.ctls := rfl
@[simp] theorem State.mem_setByte (a : Nat) (b : Byte) : (s.setByte a b).mem = Sparse.put unlistedByte s.mem a b := rfl
@[simp] theorem State.admission_setByte (a : Nat) (b : Byte) : (s.setByte a b).admission = s.admission := rfl
@[simp] theorem State.h_setByte (a : Nat) (b : Byte) : (s.setByte a b).h = s.h := rfl
@[simp] theorem State.mh_setByte (a : Nat) (b : Byte) : (s.setByte a b).mh = s.mh := rfl
@[simp] theorem State.hh_setByte (a : Nat) (b : Byte) : (s.setByte a b).hh = s.hh := rfl
@[simp] theorem State.env_setByte (a : Nat) (b : Byte) : (s.setByte a b).env = s.env := rfl
@[simp] theorem State.draws_setByte (a : Nat) (b : Byte) : (s.setByte a b).draws = s.draws := rfl
@[simp] theorem State.selInst_setByte (a : Nat) (b : Byte) : (s.setByte a b).selInst = s.selInst := rfl
@[simp] theorem State.portBy_setByte (a : Nat) (b : Byte) : (s.setByte a b).portBy = s.portBy := rfl
@[simp] theorem State.obs_setByte (a : Nat) (b : Byte) : (s.setByte a b).obs = s.obs := rfl
@[simp] theorem State.raced_setByte (a : Nat) (b : Byte) : (s.setByte a b).raced = s.raced := rfl

@[simp] theorem State.cfg_drawn : (s.drawn).cfg = s.cfg := rfl
@[simp] theorem State.seqs_drawn : (s.drawn).seqs = s.seqs := rfl
@[simp] theorem State.ctls_drawn : (s.drawn).ctls = s.ctls := rfl
@[simp] theorem State.mem_drawn : (s.drawn).mem = s.mem := rfl
@[simp] theorem State.admission_drawn : (s.drawn).admission = s.admission := rfl
@[simp] theorem State.h_drawn : (s.drawn).h = s.h := rfl
@[simp] theorem State.mh_drawn : (s.drawn).mh = s.mh := rfl
@[simp] theorem State.hh_drawn : (s.drawn).hh = s.hh := rfl
@[simp] theorem State.env_drawn : (s.drawn).env = s.env := rfl
@[simp] theorem State.draws_drawn : (s.drawn).draws = s.draws + 1 := rfl
@[simp] theorem State.selInst_drawn : (s.drawn).selInst = s.selInst := rfl
@[simp] theorem State.portBy_drawn : (s.drawn).portBy = s.portBy := rfl
@[simp] theorem State.obs_drawn : (s.drawn).obs = s.obs := rfl
@[simp] theorem State.raced_drawn : (s.drawn).raced = s.raced := rfl

@[simp] theorem State.cfg_logPort (w : Who) (op : PortOp) : (s.logPort w op).cfg = s.cfg := rfl
@[simp] theorem State.seqs_logPort (w : Who) (op : PortOp) : (s.logPort w op).seqs = s.seqs := rfl
@[simp] theorem State.ctls_logPort (w : Who) (op : PortOp) : (s.logPort w op).ctls = s.ctls := rfl
@[simp] theorem State.mem_logPort (w : Who) (op : PortOp) : (s.logPort w op).mem = s.mem := rfl
@[simp] theorem State.admission_logPort (w : Who) (op : PortOp) : (s.logPort w op).admission = s.admission := rfl
@[simp] theorem State.h_logPort (w : Who) (op : PortOp) : (s.logPort w op).h = s.h ++ [.port w op] := rfl
@[simp] theorem State.mh_logPort (w : Who) (op : PortOp) : (s.logPort w op).mh = s.mh := rfl
@[simp] theorem State.hh_logPort (w : Who) (op : PortOp) : (s.logPort w op).hh = s.hh := rfl
@[simp] theorem State.env_logPort (w : Who) (op : PortOp) : (s.logPort w op).env = s.env := rfl
@[simp] theorem State.draws_logPort (w : Who) (op : PortOp) : (s.logPort w op).draws = s.draws := rfl
@[simp] theorem State.selInst_logPort (w : Who) (op : PortOp) : (s.logPort w op).selInst = s.selInst := rfl
@[simp] theorem State.portBy_logPort (w : Who) (op : PortOp) : (s.logPort w op).portBy = s.portBy := rfl
@[simp] theorem State.obs_logPort (w : Who) (op : PortOp) : (s.logPort w op).obs = s.obs := rfl
@[simp] theorem State.raced_logPort (w : Who) (op : PortOp) : (s.logPort w op).raced = s.raced := rfl

@[simp] theorem State.cfg_logMem (n : Nat) (k : Access) (a : Nat) (b : Byte) : (s.logMem n k a b).cfg = s.cfg := rfl
@[simp] theorem State.seqs_logMem (n : Nat) (k : Access) (a : Nat) (b : Byte) : (s.logMem n k a b).seqs = s.seqs := rfl
@[simp] theorem State.ctls_logMem (n : Nat) (k : Access) (a : Nat) (b : Byte) : (s.logMem n k a b).ctls = s.ctls := rfl
@[simp] theorem State.mem_logMem (n : Nat) (k : Access) (a : Nat) (b : Byte) : (s.logMem n k a b).mem = s.mem := rfl
@[simp] theorem State.admission_logMem (n : Nat) (k : Access) (a : Nat) (b : Byte) : (s.logMem n k a b).admission = s.admission := rfl
@[simp] theorem State.h_logMem (n : Nat) (k : Access) (a : Nat) (b : Byte) : (s.logMem n k a b).h = s.h := rfl
@[simp] theorem State.mh_logMem (n : Nat) (k : Access) (a : Nat) (b : Byte) : (s.logMem n k a b).mh = s.mh ++ [⟨n, k, a, b⟩] := rfl
@[simp] theorem State.hh_logMem (n : Nat) (k : Access) (a : Nat) (b : Byte) : (s.logMem n k a b).hh = s.hh := rfl
@[simp] theorem State.env_logMem (n : Nat) (k : Access) (a : Nat) (b : Byte) : (s.logMem n k a b).env = s.env := rfl
@[simp] theorem State.draws_logMem (n : Nat) (k : Access) (a : Nat) (b : Byte) : (s.logMem n k a b).draws = s.draws := rfl
@[simp] theorem State.selInst_logMem (n : Nat) (k : Access) (a : Nat) (b : Byte) : (s.logMem n k a b).selInst = s.selInst := rfl
@[simp] theorem State.portBy_logMem (n : Nat) (k : Access) (a : Nat) (b : Byte) : (s.logMem n k a b).portBy = s.portBy := rfl
@[simp] theorem State.obs_logMem (n : Nat) (k : Access) (a : Nat) (b : Byte) : (s.logMem n k a b).obs = s.obs := rfl
@[simp] theorem State.raced_logMem (n : Nat) (k : Access) (a : Nat) (b : Byte) : (s.logMem n k a b).raced = s.raced := rfl

@[simp] theorem State.cfg_logDone (n : Nat) (r : Bool) : (s.logDone n r).cfg = s.cfg := rfl
@[simp] theorem State.seqs_logDone (n : Nat) (r : Bool) : (s.logDone n r).seqs = s.seqs := rfl
@[simp] theorem State.ctls_logDone (n : Nat) (r : Bool) : (s.logDone n r).ctls = s.ctls := rfl
@[simp] theorem State.mem_logDone (n : Nat) (r : Bool) : (s.logDone n r).mem = s.mem := rfl
@[simp] theorem State.admission_logDone (n : Nat) (r : Bool) : (s.logDone n r).admission = s.admission := rfl
@[simp] theorem State.h_logDone (n : Nat) (r : Bool) : (s.logDone n r).h = s.h := rfl
@[simp] theorem State.mh_logDone (n : Nat) (r : Bool) : (s.logDone n r).mh = s.mh := rfl
@[simp] theorem State.hh_logDone (n : Nat) (r : Bool) : (s.logDone n r).hh = s.hh ++ [.done n r] := rfl
@[simp] theorem State.env_logDone (n : Nat) (r : Bool) : (s.logDone n r).env = s.env := rfl
@[simp] theorem State.draws_logDone (n : Nat) (r : Bool) : (s.logDone n r).draws = s.draws := rfl
@[simp] theorem State.selInst_logDone (n : Nat) (r : Bool) : (s.logDone n r).selInst = s.selInst := rfl
@[simp] theorem State.portBy_logDone (n : Nat) (r : Bool) : (s.logDone n r).portBy = s.portBy := rfl
@[simp] theorem State.obs_logDone (n : Nat) (r : Bool) : (s.logDone n r).obs = s.obs := rfl
@[simp] theorem State.raced_logDone (n : Nat) (r : Bool) : (s.logDone n r).raced = s.raced := rfl

@[simp] theorem State.cfg_markRaced (w : Option Nat) (a : Nat) : (s.markRaced w a).cfg = s.cfg := rfl
@[simp] theorem State.seqs_markRaced (w : Option Nat) (a : Nat) : (s.markRaced w a).seqs = s.seqs := rfl
@[simp] theorem State.ctls_markRaced (w : Option Nat) (a : Nat) : (s.markRaced w a).ctls = s.ctls := rfl
@[simp] theorem State.mem_markRaced (w : Option Nat) (a : Nat) : (s.markRaced w a).mem = s.mem := rfl
@[simp] theorem State.admission_markRaced (w : Option Nat) (a : Nat) : (s.markRaced w a).admission = s.admission := rfl
@[simp] theorem State.h_markRaced (w : Option Nat) (a : Nat) : (s.markRaced w a).h = s.h := rfl
@[simp] theorem State.mh_markRaced (w : Option Nat) (a : Nat) : (s.markRaced w a).mh = s.mh := rfl
@[simp] theorem State.hh_markRaced (w : Option Nat) (a : Nat) : (s.markRaced w a).hh = s.hh := rfl
@[simp] theorem State.env_markRaced (w : Option Nat) (a : Nat) : (s.markRaced w a).env = s.env := rfl
@[simp] theorem State.draws_markRaced (w : Option Nat) (a : Nat) : (s.markRaced w a).draws = s.draws := rfl
@[simp] theorem State.selInst_markRaced (w : Option Nat) (a : Nat) : (s.markRaced w a).selInst = s.selInst := rfl
@[simp] theorem State.portBy_markRaced (w : Option Nat) (a : Nat) : (s.markRaced w a).portBy = s.portBy := rfl
@[simp] theorem State.obs_markRaced (w : Option Nat) (a : Nat) : (s.markRaced w a).obs = s.obs := rfl

@[simp] theorem State.cfg_forgetRaced (n : Nat) : (s.forgetRaced n).cfg = s.cfg := rfl
@[simp] theorem State.seqs_forgetRaced (n : Nat) : (s.forgetRaced n).seqs = s.seqs := rfl
@[simp] theorem State.ctls_forgetRaced (n : Nat) : (s.forgetRaced n).ctls = s.ctls := rfl
@[simp] theorem State.mem_forgetRaced (n : Nat) : (s.forgetRaced n).mem = s.mem := rfl
@[simp] theorem State.admission_forgetRaced (n : Nat) : (s.forgetRaced n).admission = s.admission := rfl
@[simp] theorem State.h_forgetRaced (n : Nat) : (s.forgetRaced n).h = s.h := rfl
@[simp] theorem State.mh_forgetRaced (n : Nat) : (s.forgetRaced n).mh = s.mh := rfl
@[simp] theorem State.hh_forgetRaced (n : Nat) : (s.forgetRaced n).hh = s.hh := rfl
@[simp] theorem State.env_forgetRaced (n : Nat) : (s.forgetRaced n).env = s.env := rfl
@[simp] theorem State.draws_forgetRaced (n : Nat) : (s.forgetRaced n).draws = s.draws := rfl
@[simp] theorem State.selInst_forgetRaced (n : Nat) : (s.forgetRaced n).selInst = s.selInst := rfl
@[simp] theorem State.portBy_forgetRaced (n : Nat) : (s.forgetRaced n).portBy = s.portBy := rfl
@[simp] theorem State.obs_forgetRaced (n : Nat) : (s.forgetRaced n).obs = s.obs := rfl
@[simp] theorem State.raced_forgetRaced (n : Nat) : (s.forgetRaced n).raced = s.raced.filter (fun p => p.1 != n) := rfl

@[simp] theorem State.holders_setByte (a : Nat) (b : Byte) (w : Option Nat) (c : Nat) : (s.setByte a b).holders w c = s.holders w c := rfl
@[simp] theorem State.holders_drawn (w : Option Nat) (c : Nat) : (s.drawn).holders w c = s.holders w c := rfl

/-- An instance holds what was written to it, and the others what they held. -/
@[simp] theorem State.seq_setSeq (n m : Nat) (q : Sequencer) : (s.setSeq n q).seq m = if m = n then q else s.seq m := by
  simp [State.seq]

/-- A controller holds what was written to it, and the others what they held. -/
@[simp] theorem State.ctl_setCtl (h g : Handle) (k : Controller) :
    (s.setCtl h k).ctl g = if g = h then k else s.ctl g := by
  simp [State.ctl, BitVec.toNat_inj]

/-- A byte reads as written, and the others as before. -/
@[simp] theorem State.byteAt_setByte (a c : Nat) (b : Byte) :
    (s.setByte a b).byteAt c = if c = a then b else s.byteAt c := by
  simp [State.byteAt]

@[simp] theorem State.seq_setCtl (h : Handle) (k : Controller) (m : Nat) : (s.setCtl h k).seq m = s.seq m := rfl
@[simp] theorem State.seq_setByte (a : Nat) (b : Byte) (m : Nat) : (s.setByte a b).seq m = s.seq m := rfl
@[simp] theorem State.seq_drawn (m : Nat) : (s.drawn).seq m = s.seq m := rfl
@[simp] theorem State.seq_logPort (w : Who) (op : PortOp) (m : Nat) : (s.logPort w op).seq m = s.seq m := rfl
@[simp] theorem State.seq_logMem (n : Nat) (k : Access) (a : Nat) (b : Byte) (m : Nat) : (s.logMem n k a b).seq m = s.seq m := rfl
@[simp] theorem State.seq_logDone (n : Nat) (r : Bool) (m : Nat) : (s.logDone n r).seq m = s.seq m := rfl
@[simp] theorem State.seq_markRaced (w : Option Nat) (a : Nat) (m : Nat) : (s.markRaced w a).seq m = s.seq m := rfl
@[simp] theorem State.seq_forgetRaced (n : Nat) (m : Nat) : (s.forgetRaced n).seq m = s.seq m := rfl

@[simp] theorem State.ctl_setSeq (n : Nat) (q : Sequencer) (g : Handle) : (s.setSeq n q).ctl g = s.ctl g := rfl
@[simp] theorem State.ctl_setByte (a : Nat) (b : Byte) (g : Handle) : (s.setByte a b).ctl g = s.ctl g := rfl
@[simp] theorem State.ctl_drawn (g : Handle) : (s.drawn).ctl g = s.ctl g := rfl
@[simp] theorem State.ctl_logPort (w : Who) (op : PortOp) (g : Handle) : (s.logPort w op).ctl g = s.ctl g := rfl
@[simp] theorem State.ctl_logMem (n : Nat) (k : Access) (a : Nat) (b : Byte) (g : Handle) : (s.logMem n k a b).ctl g = s.ctl g := rfl
@[simp] theorem State.ctl_logDone (n : Nat) (r : Bool) (g : Handle) : (s.logDone n r).ctl g = s.ctl g := rfl
@[simp] theorem State.ctl_markRaced (w : Option Nat) (a : Nat) (g : Handle) : (s.markRaced w a).ctl g = s.ctl g := rfl
@[simp] theorem State.ctl_forgetRaced (n : Nat) (g : Handle) : (s.forgetRaced n).ctl g = s.ctl g := rfl

@[simp] theorem State.byteAt_setSeq (n : Nat) (q : Sequencer) (c : Nat) : (s.setSeq n q).byteAt c = s.byteAt c := rfl
@[simp] theorem State.byteAt_setCtl (h : Handle) (k : Controller) (c : Nat) : (s.setCtl h k).byteAt c = s.byteAt c := rfl
@[simp] theorem State.byteAt_drawn (c : Nat) : (s.drawn).byteAt c = s.byteAt c := rfl
@[simp] theorem State.byteAt_logPort (w : Who) (op : PortOp) (c : Nat) : (s.logPort w op).byteAt c = s.byteAt c := rfl
@[simp] theorem State.byteAt_logMem (n : Nat) (k : Access) (a : Nat) (b : Byte) (c : Nat) : (s.logMem n k a b).byteAt c = s.byteAt c := rfl
@[simp] theorem State.byteAt_logDone (n : Nat) (r : Bool) (c : Nat) : (s.logDone n r).byteAt c = s.byteAt c := rfl
@[simp] theorem State.byteAt_markRaced (w : Option Nat) (a : Nat) (c : Nat) : (s.markRaced w a).byteAt c = s.byteAt c := rfl
@[simp] theorem State.byteAt_forgetRaced (n : Nat) (c : Nat) : (s.forgetRaced n).byteAt c = s.byteAt c := rfl

@[simp] theorem State.admits_setSeq (n : Nat) (q : Sequencer) (x : Access) (y : Nat) : (s.setSeq n q).admits x y = s.admits x y := rfl
@[simp] theorem State.admits_setCtl (h : Handle) (k : Controller) (x : Access) (y : Nat) : (s.setCtl h k).admits x y = s.admits x y := rfl
@[simp] theorem State.admits_setByte (a : Nat) (b : Byte) (x : Access) (y : Nat) : (s.setByte a b).admits x y = s.admits x y := rfl
@[simp] theorem State.admits_drawn (x : Access) (y : Nat) : (s.drawn).admits x y = s.admits x y := rfl
@[simp] theorem State.admits_logPort (w : Who) (op : PortOp) (x : Access) (y : Nat) : (s.logPort w op).admits x y = s.admits x y := rfl
@[simp] theorem State.admits_logMem (n : Nat) (k : Access) (a : Nat) (b : Byte) (x : Access) (y : Nat) : (s.logMem n k a b).admits x y = s.admits x y := rfl
@[simp] theorem State.admits_logDone (n : Nat) (r : Bool) (x : Access) (y : Nat) : (s.logDone n r).admits x y = s.admits x y := rfl
@[simp] theorem State.admits_markRaced (w : Option Nat) (a : Nat) (x : Access) (y : Nat) : (s.markRaced w a).admits x y = s.admits x y := rfl
@[simp] theorem State.admits_forgetRaced (n : Nat) (x : Access) (y : Nat) : (s.forgetRaced n).admits x y = s.admits x y := rfl

@[simp] theorem State.handleOf_inst (n : Nat) : s.handleOf (.inst n) = (s.seq n).ctlid := rfl
@[simp] theorem State.handleOf_driver (h : Handle) : s.handleOf (.driver h) = h := rfl

/-- An instance nothing has written is as after reset. -/
theorem State.seq_eq_reset_of_not_listed (n : Nat) (h : ∀ p ∈ s.seqs, p.1 ≠ n) : s.seq n = Sequencer.reset :=
  Sparse.get_of_not_mem _ _ _ h

end Sys2Proof.Machine
end

