-- ==== Sys2Proof/Laws/Ops.lean ====
section
/-! SUPPORT. For each shared operation one lemma that says everything it can do. -/

namespace Sys2Proof.Machine

@[simp] theorem Result.andThen_next (s : State) (f : State → Result) : Result.andThen (.next s) f = f s := rfl
@[simp] theorem Result.andThen_fault (e : Fault) (f : State → Result) : Result.andThen (.fault e) f = .fault e := rfl
@[simp] theorem Result.andThen_refused (e : Refusal) (f : State → Result) :
    Result.andThen (.refused e) f = .refused e := rfl

theorem Result.andThen_eq_next {r : Result} {f : State → Result} {t : State} :
    r.andThen f = .next t ↔ ∃ u, r = .next u ∧ f u = .next t := by
  cases r <;> simp [Result.andThen]

/-- `SetSlaveAddress` writes the address and the direction and logs one event, or the port was busy. -/
theorem portSetSlaveAddress_cases (w : Who) (a : SlaveAddr) (r : Dir) (s : State) :
    ((s.ctl (s.handleOf w)).busy = true ∧ portSetSlaveAddress w a r s = .fault .portBusy) ∨
      ((s.ctl (s.handleOf w)).busy = false ∧
        portSetSlaveAddress w a r s =
          .next ((s.setCtl (s.handleOf w) ((s.ctl (s.handleOf w)).address a r)).logPort w (.setSlaveAddress a r))) := by
  unfold portSetSlaveAddress
  cases (s.ctl (s.handleOf w)).busy <;> simp

/-- `PutData` writes the data register and logs one event, or the port was busy. -/
theorem portPutData_cases (w : Who) (b : Byte) (s : State) :
    ((s.ctl (s.handleOf w)).busy = true ∧ portPutData w b s = .fault .portBusy) ∨
      ((s.ctl (s.handleOf w)).busy = false ∧
        portPutData w b s =
          .next ((s.setCtl (s.handleOf w) ((s.ctl (s.handleOf w)).load b)).logPort w (.putData b))) := by
  unfold portPutData
  cases (s.ctl (s.handleOf w)).busy <;> simp

/-- `IssueCommand` puts the command in flight and logs one event, or the port was busy, or the direction was wrong. -/
theorem portIssueCommand_cases (w : Who) (c : Cmd) (s : State) :
    ((s.ctl (s.handleOf w)).busy = true ∧ portIssueCommand w c s = .fault .portBusy) ∨
      ((s.ctl (s.handleOf w)).busy = false ∧ c.dir ≠ (s.ctl (s.handleOf w)).rw ∧
        portIssueCommand w c s = .fault .dirMismatch) ∨
      ((s.ctl (s.handleOf w)).busy = false ∧ c.dir = (s.ctl (s.handleOf w)).rw ∧
        portIssueCommand w c s =
          .next ((s.setCtl (s.handleOf w) ((s.ctl (s.handleOf w)).issue c)).logPort w (.issueCommand c))) := by
  unfold portIssueCommand
  cases (s.ctl (s.handleOf w)).busy
  · by_cases h : c.dir = (s.ctl (s.handleOf w)).rw <;> simp [h]
  · simp

/-- `GetData` reads the data register, or draws a byte; it logs one event. -/
theorem portGetData_cases (w : Who) (s : State) :
    (∃ b, (s.ctl (s.handleOf w)).shownData = some b ∧ portGetData w s = (b, s.logPort w (.getData b))) ∨
      ((s.ctl (s.handleOf w)).shownData = none ∧
        portGetData w s = (Config.freeByte s.draws, s.drawn.logPort w (.getData (Config.freeByte s.draws)))) := by
  unfold portGetData
  cases (s.ctl (s.handleOf w)).shownData <;> simp

/-- `GetError` reads the error status, or draws one; it logs one event. -/
theorem portGetError_cases (w : Who) (s : State) :
    (∃ e, (s.ctl (s.handleOf w)).shownErr = some e ∧ portGetError w s = (e, s.logPort w (.getError e))) ∨
      ((s.ctl (s.handleOf w)).shownErr = none ∧
        portGetError w s = (Config.freeErr s.draws, s.drawn.logPort w (.getError (Config.freeErr s.draws)))) := by
  unfold portGetError
  cases (s.ctl (s.handleOf w)).shownErr <;> simp

@[simp] theorem Controller.shownData_idle (k : Controller) (h : k.busy = false) : k.shownData = k.data := by
  simp [Controller.shownData, h]

@[simp] theorem Controller.shownErr_idle (k : Controller) (h : k.busy = false) : k.shownErr = k.err := by
  simp [Controller.shownErr, h]

/-- Completion: nothing where no command is in flight, else the controller as rule R124 leaves it, and one event. -/
theorem completeCommand_cases (h : Handle) (e : BusErr) (d : Byte) (s : State) :
    ((s.ctl h).infl = none ∧ completeCommand h e d s = s) ∨
      (∃ c, (s.ctl h).infl = some c ∧
        completeCommand h e d s =
          { s.setCtl h ((s.ctl h).complete c e d) with
            h := s.h ++ [.complete h c e (if c.receives then some d else none)] }) := by
  unfold completeCommand
  cases (s.ctl h).infl <;> simp

/-- A command's completion leaves the controller legal and idle. -/
theorem Controller.complete_idle (c : Cmd) (e : BusErr) (d : Byte) (k : Controller) :
    (k.complete c e d).busy = false ∧ (k.complete c e d).infl = none ∧ (k.complete c e d).err = some e ∧
      (k.complete c e d).addr = k.addr ∧ (k.complete c e d).rw = k.rw := by
  simp [Controller.complete]

/-- Acceptance: one of the three faults, in their order, or the latch. -/
theorem accept_cases (n : Nat) (f : Sequencer → Sequencer) (s : State) :
    ((s.seq n).st ≠ .idle ∧ accept n f s = .fault .overlap) ∨
      ((s.seq n).st = .idle ∧ (s.seq n).bound = false ∧ accept n f s = .fault .notBound) ∨
      ((s.seq n).st = .idle ∧ (s.seq n).bound = true ∧ s.sharedActive n = true ∧
        accept n f s = .fault .sharedController) ∨
      ((s.seq n).st = .idle ∧ (s.seq n).bound = true ∧ s.sharedActive n = false ∧
        accept n f s = .next ((s.setSeq n (f (s.seq n))).forgetRaced n)) := by
  unfold accept
  by_cases h : (s.seq n).st = .idle
  · cases hb : (s.seq n).bound
    · simp [h]
    · cases hs : s.sharedActive n <;> simp [h]
  · simp [h]

/-- An instance after reset is active on no handle. -/
theorem Sequencer.reset_not_active (h : Handle) : Sequencer.reset.activeOn h = false := by
  simp [Sequencer.activeOn, Sequencer.reset]

/-- `sharedActive` says what rule R142 says, of every other instance, listed or not. -/
theorem State.sharedActive_iff (s : State) (n : Nat) :
    s.sharedActive n = true ↔ ∃ m, m ≠ n ∧ (s.seq m).activeOn (s.seq n).ctlid = true := by
  unfold State.sharedActive
  simp only [List.any_eq_true, Bool.and_eq_true, bne_iff_ne, ne_eq]
  constructor
  · rintro ⟨p, _, hp, ha⟩
    exact ⟨p.1, hp, ha⟩
  · rintro ⟨m, hm, ha⟩
    by_cases hl : ∀ p ∈ s.seqs, p.1 ≠ m
    · rw [s.seq_eq_reset_of_not_listed m hl, Sequencer.reset_not_active] at ha
      exact absurd ha (by simp)
    · push Not at hl
      obtain ⟨p, hp, rfl⟩ := hl
      exact ⟨p, hp, hm, ha⟩

/-- The instances that hold a byte are those with it in a buffer, but for the one that accesses it; instances not listed have none. -/
theorem State.mem_holders (s : State) (w : Option Nat) (a m : Nat) :
    m ∈ s.holders w a ↔
      isOther w m = true ∧ ((s.seq m).writeBufferHas a = true ∨ (s.seq m).outputBufferHas s.cfg a = true) := by
  simp only [State.holders, List.mem_filter, List.mem_map, Bool.and_eq_true, Bool.or_eq_true]
  refine ⟨fun h => h.2, fun h => ⟨?_, h⟩⟩
  by_contra hl
  rw [s.seq_eq_reset_of_not_listed m (fun p hp e => hl ⟨p, hp, e⟩)] at h
  rcases h.2 with h | h <;> cases h

/-- After a racing write the byte is raced for the requests that hold it, and for those it was raced for before. -/
theorem State.racedFor_markRaced (s : State) (w : Option Nat) (a c m : Nat) :
    (s.markRaced w a).racedFor (some m) c = true ↔ s.racedFor (some m) c = true ∨ c = a ∧ m ∈ s.holders w a := by
  simp only [State.racedFor, State.markRaced, List.contains_iff_mem, List.mem_append, List.mem_map, List.mem_filter,
    Prod.mk.injEq, Bool.not_eq_true', Bool.eq_false_iff, ne_eq]
  constructor
  · rintro (⟨x, ⟨hx, -⟩, rfl, rfl⟩ | h)
    · exact .inr ⟨rfl, hx⟩
    · exact .inl h
  · rintro (h | ⟨rfl, h⟩)
    · exact .inr h
    · by_cases hr : (m, c) ∈ s.raced
      · exact .inr hr
      · exact .inl ⟨m, ⟨h, hr⟩, rfl, rfl⟩

/-- A new request of an instance has no raced byte; the other requests have theirs. -/
theorem State.racedFor_forgetRaced (s : State) (n c m : Nat) :
    (s.forgetRaced n).racedFor (some m) c = true ↔ m ≠ n ∧ s.racedFor (some m) c = true := by
  simp [State.racedFor, and_comm]

/-- A write races exactly with an earlier racing write of the byte, or a buffer of some other instance's request. -/
theorem State.writeRaces_iff (s : State) (w : Option Nat) (a : Nat) :
    s.writeRaces w a = true ↔
      s.racedFor w a = true ∨
        ∃ m, isOther w m = true ∧ ((s.seq m).writeBufferHas a = true ∨ (s.seq m).outputBufferHas s.cfg a = true) := by
  unfold State.writeRaces
  simp only [List.any_eq_true, Bool.and_eq_true, Bool.or_eq_true]
  refine or_congr Iff.rfl ⟨?_, ?_⟩
  · rintro ⟨p, _, h⟩
    exact ⟨p.1, h⟩
  · rintro ⟨m, hm, h⟩
    by_cases hl : ∀ p ∈ s.seqs, p.1 ≠ m
    · rw [s.seq_eq_reset_of_not_listed m hl] at h
      rcases h with h | h <;> cases h
    · push Not at hl
      obtain ⟨p, hp, rfl⟩ := hl
      exact ⟨p, hp, hm, h⟩

/-- A read races exactly with an earlier racing write of the byte, or a read or output buffer of some other instance's request. -/
theorem State.readRaces_iff (s : State) (w : Option Nat) (a : Nat) :
    s.readRaces w a = true ↔
      s.racedFor w a = true ∨ ∃ m, isOther w m = true ∧ (s.seq m).outputBufferHas s.cfg a = true := by
  unfold State.readRaces
  simp only [List.any_eq_true, Bool.and_eq_true, Bool.or_eq_true]
  refine or_congr Iff.rfl ⟨?_, ?_⟩
  · rintro ⟨p, _, h⟩
    exact ⟨p.1, h⟩
  · rintro ⟨m, hm, h⟩
    by_cases hl : ∀ p ∈ s.seqs, p.1 ≠ m
    · rw [s.seq_eq_reset_of_not_listed m hl] at h
      cases h
    · push Not at hl
      obtain ⟨p, hp, rfl⟩ := hl
      exact ⟨p, hp, hm, h⟩

/-- A read returns the byte, or in a race any value, and changes at most the counter of free values. -/
theorem State.load_cases (s : State) (w : Option Nat) (a : Nat) :
    (s.readRaces w a = false ∧ s.load w a = (s.byteAt a, s)) ∨
      (s.readRaces w a = true ∧ s.load w a = (Config.freeByte s.draws, s.drawn)) := by
  unfold State.load
  cases s.readRaces w a <;> simp

/-- A write stores the byte, or in a race any value, which it marks as raced, at the one address. -/
theorem State.store_cases (s : State) (w : Option Nat) (a : Nat) (b : Byte) :
    (s.writeRaces w a = false ∧ s.store w a b = s.setByte a b) ∨
      (s.writeRaces w a = true ∧ s.store w a b = (s.drawn.setByte a (Config.freeByte s.draws)).markRaced w a) := by
  unfold State.store
  cases s.writeRaces w a <;> simp

/-! What a write of memory leaves as it was. -/

@[simp] theorem State.cfg_store (s : State) (w : Option Nat) (a : Nat) (b : Byte) : (s.store w a b).cfg = s.cfg := by
  rcases s.store_cases w a b with ⟨_, e⟩ | ⟨_, e⟩ <;> simp [e]

@[simp] theorem State.seqs_store (s : State) (w : Option Nat) (a : Nat) (b : Byte) : (s.store w a b).seqs = s.seqs := by
  rcases s.store_cases w a b with ⟨_, e⟩ | ⟨_, e⟩ <;> simp [e]

@[simp] theorem State.ctls_store (s : State) (w : Option Nat) (a : Nat) (b : Byte) : (s.store w a b).ctls = s.ctls := by
  rcases s.store_cases w a b with ⟨_, e⟩ | ⟨_, e⟩ <;> simp [e]

@[simp] theorem State.admission_store (s : State) (w : Option Nat) (a : Nat) (b : Byte) : (s.store w a b).admission = s.admission := by
  rcases s.store_cases w a b with ⟨_, e⟩ | ⟨_, e⟩ <;> simp [e]

@[simp] theorem State.h_store (s : State) (w : Option Nat) (a : Nat) (b : Byte) : (s.store w a b).h = s.h := by
  rcases s.store_cases w a b with ⟨_, e⟩ | ⟨_, e⟩ <;> simp [e]

@[simp] theorem State.mh_store (s : State) (w : Option Nat) (a : Nat) (b : Byte) : (s.store w a b).mh = s.mh := by
  rcases s.store_cases w a b with ⟨_, e⟩ | ⟨_, e⟩ <;> simp [e]

@[simp] theorem State.hh_store (s : State) (w : Option Nat) (a : Nat) (b : Byte) : (s.store w a b).hh = s.hh := by
  rcases s.store_cases w a b with ⟨_, e⟩ | ⟨_, e⟩ <;> simp [e]

@[simp] theorem State.env_store (s : State) (w : Option Nat) (a : Nat) (b : Byte) : (s.store w a b).env = s.env := by
  rcases s.store_cases w a b with ⟨_, e⟩ | ⟨_, e⟩ <;> simp [e]

@[simp] theorem State.selInst_store (s : State) (w : Option Nat) (a : Nat) (b : Byte) : (s.store w a b).selInst = s.selInst := by
  rcases s.store_cases w a b with ⟨_, e⟩ | ⟨_, e⟩ <;> simp [e]

@[simp] theorem State.portBy_store (s : State) (w : Option Nat) (a : Nat) (b : Byte) : (s.store w a b).portBy = s.portBy := by
  rcases s.store_cases w a b with ⟨_, e⟩ | ⟨_, e⟩ <;> simp [e]

@[simp] theorem State.obs_store (s : State) (w : Option Nat) (a : Nat) (b : Byte) : (s.store w a b).obs = s.obs := by
  rcases s.store_cases w a b with ⟨_, e⟩ | ⟨_, e⟩ <;> simp [e]

@[simp] theorem State.seq_store (s : State) (w : Option Nat) (a : Nat) (b : Byte) (m : Nat) :
    (s.store w a b).seq m = s.seq m := by
  simp [State.seq]

@[simp] theorem State.ctl_store (s : State) (w : Option Nat) (a : Nat) (b : Byte) (g : Handle) :
    (s.store w a b).ctl g = s.ctl g := by
  simp [State.ctl]

/-- A write leaves every other byte alone. -/
theorem State.byteAt_store_ne (s : State) (w : Option Nat) (a c : Nat) (b : Byte) (h : c ≠ a) :
    (s.store w a b).byteAt c = s.byteAt c := by
  rcases s.store_cases w a b with ⟨_, e⟩ | ⟨_, e⟩ <;> simp [e, h]

/-- A write keeps the canonical form of memory. -/
theorem State.store_keeps_wf (s : State) (w : Option Nat) (a : Nat) (b : Byte)
    (h : Sparse.wf unlistedByte s.mem = true) : Sparse.wf unlistedByte (s.store w a b).mem = true := by
  rcases s.store_cases w a b with ⟨_, e⟩ | ⟨_, e⟩ <;> simp [e, Sparse.wf_put _ _ _ _ h]

/-- `MemRead`: refused, or the byte with one event. -/
theorem memRead_cases (n a : Nat) (s : State) :
    (s.admits .read a = false ∧ memRead n a s = none) ∨
      (s.admits .read a = true ∧
        memRead n a s =
          some ((s.load (some n) a).1, (s.load (some n) a).2.logMem n .read a (s.load (some n) a).1)) := by
  unfold memRead
  cases s.admits .read a <;> simp

/-- `MemWrite`: refused, or the byte stored, with one event. -/
theorem memWrite_cases (n a : Nat) (b : Byte) (s : State) :
    (s.admits .write a = false ∧ memWrite n a b s = none) ∨
      (s.admits .write a = true ∧ memWrite n a b s = some ((s.store (some n) a b).logMem n .write a b)) := by
  unfold memWrite
  cases s.admits .write a <;> simp

/-- `MemWrite` keeps the canonical form of memory. -/
theorem memWrite_keeps_wf (n a : Nat) (b : Byte) (s t : State) (h : Sparse.wf unlistedByte s.mem = true)
    (e : memWrite n a b s = some t) : Sparse.wf unlistedByte t.mem = true := by
  rcases memWrite_cases n a b s with ⟨_, hn⟩ | ⟨_, hs⟩
  · rw [hn] at e; cases e
  · rw [hs] at e
    cases e
    exact s.store_keeps_wf _ _ _ h

/-- Another agent's write keeps the canonical form of memory. -/
theorem agentWrite_keeps_wf (a : Word) (b : Byte) (s : State) (h : Sparse.wf unlistedByte s.mem = true) :
    Sparse.wf unlistedByte (agentWrite a b s).mem = true :=
  s.store_keeps_wf _ _ _ h

/-- Nothing is listed after reset, which is in canonical form. -/
theorem State.reset_wf : Sparse.wf unlistedByte State.reset.mem = true := rfl

/-- No address above 2^AW − 1 is admitted. -/
theorem State.not_admits_above (s : State) (k : Access) (a : Nat) (h : 2 ^ s.cfg.aw ≤ a) : s.admits k a = false := by
  unfold State.admits
  rw [decide_eq_false (Nat.not_lt.mpr h), Bool.false_and]

/-- An address step: the port was busy, or the address is set and the sequencer goes on. -/
theorem saStep_cases (n : Nat) (r : Dir) (next : St) (s : State) :
    ((s.ctl (s.seq n).ctlid).busy = true ∧ saStep n r next s = .fault .portBusy) ∨
      ((s.ctl (s.seq n).ctlid).busy = false ∧
        saStep n r next s =
          .next (((s.setCtl (s.seq n).ctlid ((s.ctl (s.seq n).ctlid).address (s.seq n).sa r)).logPort (.inst n)
            (.setSlaveAddress (s.seq n).sa r)).goto n next)) := by
  unfold saStep
  rcases portSetSlaveAddress_cases (.inst n) (s.seq n).sa r s with ⟨h, e⟩ | ⟨h, e⟩
  · exact .inl ⟨h, by rw [e]; rfl⟩
  · exact .inr ⟨h, by rw [e]; rfl⟩

/-- A command step: the port was busy, or the direction was wrong, or the command is in flight and `S.TC` is 0. -/
theorem cmdStep_cases (n : Nat) (c : Cmd) (next : St) (s : State) :
    ((s.ctl (s.seq n).ctlid).busy = true ∧ cmdStep n c next s = .fault .portBusy) ∨
      ((s.ctl (s.seq n).ctlid).busy = false ∧ c.dir ≠ (s.ctl (s.seq n).ctlid).rw ∧
        cmdStep n c next s = .fault .dirMismatch) ∨
      ((s.ctl (s.seq n).ctlid).busy = false ∧ c.dir = (s.ctl (s.seq n).ctlid).rw ∧
        cmdStep n c next s =
          .next (((s.setCtl (s.seq n).ctlid ((s.ctl (s.seq n).ctlid).issue c)).logPort (.inst n)
            (.issueCommand c)).setSeq n { s.seq n with tc := 0, st := next })) := by
  unfold cmdStep
  rcases portIssueCommand_cases (.inst n) c s with ⟨h, e⟩ | ⟨h, h', e⟩ | ⟨h, h', e⟩
  · exact .inl ⟨h, by rw [e]; rfl⟩
  · exact .inr (.inl ⟨h, h', by rw [e]; rfl⟩)
  · exact .inr (.inr ⟨h, h', by rw [e]; rfl⟩)

/-- A busy-wait step: it leaves on idle, stays on busy, or aborts under the timeout deviation; one `IsBusy` event. -/
theorem pollStep_cases (n : Nat) (leave : Sequencer → Sequencer) (s : State) :
    ((s.ctl (s.seq n).ctlid).busy = false ∧
        pollStep n leave s = .next ((s.logPort (.inst n) (.isBusy false)).setSeq n (leave (s.seq n)))) ∨
      ((s.ctl (s.seq n).ctlid).busy = true ∧ timedOut s.cfg.busyTimeout (s.seq n).tc = true ∧
        pollStep n leave s = .next (fail n .timeout (s.logPort (.inst n) (.isBusy true)))) ∨
      ((s.ctl (s.seq n).ctlid).busy = true ∧ timedOut s.cfg.busyTimeout (s.seq n).tc = false ∧
        pollStep n leave s = .next (countPoll n (s.logPort (.inst n) (.isBusy true)))) := by
  unfold pollStep portIsBusy
  rcases Bool.eq_false_or_eq_true (s.ctl (s.seq n).ctlid).busy with h | h
  · rcases Bool.eq_false_or_eq_true (timedOut s.cfg.busyTimeout (s.seq n).tc) with h' | h' <;> simp [h, h']
  · simp [h]

/-- A poll counted changes `S.TC` alone, and at most the counter of free values. -/
theorem countPoll_cases (n : Nat) (s : State) :
    ((s.seq n).tc.toNat + 1 < 2 ^ 32 ∧
        countPoll n s = s.setSeq n { s.seq n with tc := BitVec.ofNat 32 ((s.seq n).tc.toNat + 1) }) ∨
      (¬(s.seq n).tc.toNat + 1 < 2 ^ 32 ∧
        countPoll n s = s.drawn.setSeq n { s.seq n with tc := Config.freeCount s.draws }) := by
  unfold countPoll countUp
  by_cases h : (s.seq n).tc.toNat + 1 < 2 ^ 32
  · exact .inl ⟨h, by rw [if_pos h]⟩
  · exact .inr ⟨h, by rw [if_neg h]⟩

/-- An error check reads `e`, logged in `t`: it aborts on `error`, else the sequencer goes on. -/
theorem errStep_cases (n : Nat) (leave : Sequencer → Sequencer) (s : State) :
    ∃ e t, portGetError (.inst n) s = (e, t) ∧
      ((e = .error ∧ errStep n leave s = .next (fail n .busError t)) ∨
        (e = .none ∧ errStep n leave s = .next (t.setSeq n (leave (t.seq n))))) := by
  refine ⟨(portGetError (.inst n) s).1, (portGetError (.inst n) s).2, rfl, ?_⟩
  unfold errStep
  cases h : (portGetError (.inst n) s).1 <;> simp [h]

/-- `WByte(i)`: the constant byte, or the memory byte, or refused. -/
theorem writeByte_cases (n i : Nat) (s : State) :
    ((s.seq n).wsrc = .const ∧ writeByte n i s = some ((s.seq n).wk, s)) ∨
      ((s.seq n).wsrc = .mem ∧ writeByte n i s = memRead n (bufferAddr (s.seq n).wp i) s) := by
  unfold writeByte
  cases (s.seq n).wsrc <;> simp

/-- A `MemRead` changes at most `MH` and the counter of free values. -/
theorem memRead_same {n a : Nat} {s t : State} {b : Byte} (h : memRead n a s = some (b, t)) :
    t.seqs = s.seqs ∧ t.ctls = s.ctls ∧ t.mem = s.mem ∧ t.cfg = s.cfg ∧ t.admission = s.admission ∧ t.h = s.h ∧
      t.hh = s.hh ∧ t.env = s.env ∧ t.selInst = s.selInst ∧ t.portBy = s.portBy ∧ t.obs = s.obs := by
  rcases memRead_cases n a s with ⟨_, e⟩ | ⟨_, e⟩
  · rw [e] at h; cases h
  · rw [e] at h
    cases h
    rcases s.load_cases (some n) a with ⟨_, e'⟩ | ⟨_, e'⟩ <;> simp [e']

/-- Fetching a write byte changes at most `MH` and the counter of free values. -/
theorem writeByte_same {n i : Nat} {s t : State} {b : Byte} (h : writeByte n i s = some (b, t)) :
    t.seqs = s.seqs ∧ t.ctls = s.ctls ∧ t.mem = s.mem ∧ t.cfg = s.cfg ∧ t.admission = s.admission ∧ t.h = s.h ∧
      t.hh = s.hh ∧ t.env = s.env ∧ t.selInst = s.selInst ∧ t.portBy = s.portBy ∧ t.obs = s.obs := by
  rcases writeByte_cases n i s with ⟨_, e⟩ | ⟨_, e⟩
  · rw [e] at h
    cases h
    simp
  · rw [e] at h
    exact memRead_same h

/-- A load step: stuck where memory refuses the byte; else the port was busy, or the byte is in the data register. -/
theorem putStep_cases (n i : Nat) (next : St) (s : State) :
    (writeByte n i s = none ∧ putStep n i next s = .next s) ∨
      ∃ b t, writeByte n i s = some (b, t) ∧
        (((s.ctl (s.seq n).ctlid).busy = true ∧ putStep n i next s = .fault .portBusy) ∨
          ((s.ctl (s.seq n).ctlid).busy = false ∧
            putStep n i next s =
              .next (((t.setCtl (s.seq n).ctlid ((s.ctl (s.seq n).ctlid).load b)).logPort (.inst n)
                (.putData b)).goto n next))) := by
  unfold putStep
  cases hw : writeByte n i s with
  | none => exact .inl ⟨rfl, rfl⟩
  | some p =>
    obtain ⟨b, t⟩ := p
    right
    refine ⟨b, t, rfl, ?_⟩
    obtain ⟨h1, h2, -⟩ := writeByte_same hw
    have hs : t.seq n = s.seq n := by simp [State.seq, h1]
    have hc : t.ctl = s.ctl := by funext g; simp [State.ctl, h2]
    rcases portPutData_cases (.inst n) b t with ⟨h, e⟩ | ⟨h, e⟩ <;>
      simp only [State.handleOf_inst, hs, hc] at h e ⊢
    · exact .inl ⟨h, by rw [e]; rfl⟩
    · exact .inr ⟨h, by rw [e]; rfl⟩

/-- `GetData` changes at most `H` and the counter of free values. -/
theorem portGetData_same (w : Who) (s : State) :
    (portGetData w s).2.seqs = s.seqs ∧ (portGetData w s).2.ctls = s.ctls ∧ (portGetData w s).2.mem = s.mem ∧
      (portGetData w s).2.cfg = s.cfg ∧ (portGetData w s).2.admission = s.admission ∧ (portGetData w s).2.mh = s.mh ∧
      (portGetData w s).2.hh = s.hh ∧ (portGetData w s).2.env = s.env ∧ (portGetData w s).2.selInst = s.selInst ∧
      (portGetData w s).2.portBy = s.portBy ∧ (portGetData w s).2.obs = s.obs ∧
      (portGetData w s).2.h = s.h ++ [.port w (.getData (portGetData w s).1)] := by
  rcases portGetData_cases w s with ⟨b, _, e⟩ | ⟨_, e⟩ <;> simp [e]

/-- `GetError` changes at most `H` and the counter of free values. -/
theorem portGetError_same (w : Who) (s : State) :
    (portGetError w s).2.seqs = s.seqs ∧ (portGetError w s).2.ctls = s.ctls ∧ (portGetError w s).2.mem = s.mem ∧
      (portGetError w s).2.cfg = s.cfg ∧ (portGetError w s).2.admission = s.admission ∧ (portGetError w s).2.mh = s.mh ∧
      (portGetError w s).2.hh = s.hh ∧ (portGetError w s).2.env = s.env ∧ (portGetError w s).2.selInst = s.selInst ∧
      (portGetError w s).2.portBy = s.portBy ∧ (portGetError w s).2.obs = s.obs ∧
      (portGetError w s).2.h = s.h ++ [.port w (.getError (portGetError w s).1)] := by
  rcases portGetError_cases w s with ⟨b, _, e⟩ | ⟨_, e⟩ <;> simp [e]

/-- A pull step: stuck where memory refuses the byte, else the byte read is stored and the sequencer goes on. -/
theorem getStep_cases (n i : Nat) (leave : Sequencer → Sequencer) (s : State) :
    (s.admits .write (bufferAddr (s.seq n).rp i) = false ∧ getStep n i leave s = .next s) ∨
      (s.admits .write (bufferAddr (s.seq n).rp i) = true ∧
        ∃ b u, portGetData (.inst n) s = (b, u) ∧
          getStep n i leave s =
            .next (((u.store (some n) (bufferAddr (s.seq n).rp i) b).logMem n .write (bufferAddr (s.seq n).rp i) b).setSeq n
              (leave (s.seq n)))) := by
  unfold getStep
  obtain ⟨h1, -, -, h4, h5, -⟩ := portGetData_same (.inst n) s
  have ha : (portGetData (.inst n) s).2.admits = s.admits := by
    funext k a; simp [State.admits, h4, h5]
  rcases memWrite_cases n (bufferAddr (s.seq n).rp i) (portGetData (.inst n) s).1 (portGetData (.inst n) s).2 with
    ⟨h, e⟩ | ⟨h, e⟩
  · rw [ha] at h
    exact .inl ⟨h, by simp [e, stuck]⟩
  · rw [ha] at h
    refine .inr ⟨h, (portGetData (.inst n) s).1, (portGetData (.inst n) s).2, rfl, ?_⟩
    have hs : (portGetData (.inst n) s).2.seq n = s.seq n := by simp [State.seq, h1]
    simp only [e, State.seq_logMem, State.seq_store, hs]

/-- A sentinel step: stuck where memory refuses the byte, else the byte is stored and the sequencer goes on. -/
theorem sentinelStep_cases (n a : Nat) (leave : Sequencer → Sequencer) (s : State) :
    (s.admits .write a = false ∧ sentinelStep n a leave s = .next s) ∨
      (s.admits .write a = true ∧
        sentinelStep n a leave s =
          .next (((s.store (some n) a s.cfg.sentinel).logMem n .write a s.cfg.sentinel).setSeq n
            (leave (((s.store (some n) a s.cfg.sentinel).logMem n .write a s.cfg.sentinel).seq n)))) := by
  unfold sentinelStep
  rcases memWrite_cases n a s.cfg.sentinel s with ⟨h, e⟩ | ⟨h, e⟩
  · exact .inl ⟨h, by rw [e]; rfl⟩
  · exact .inr ⟨h, by rw [e]⟩

end Sys2Proof.Machine
end

