-- ==== Sys2Proof/Laws/Fsm.lean ====
section
/-! SUPPORT. The shape of every FSM step as a function of the registers alone, and one lemma that says which shared step each
state takes: a claim over all states is then a claim over the ten shapes. -/

namespace Sys2Proof.Machine

/-- What the step of a state is made of; `q` is the sequencer it leaves where it goes on. -/
inductive Shape where
  | still
  | address (r : Dir) (next : St)
  | load (i : Nat) (next : St)
  | command (c : Cmd) (next : St)
  | poll (q : Sequencer)
  | check (q : Sequencer)
  | pull (i : Nat) (q : Sequencer)
  | fill (a : Nat) (q : Sequencer)
  | move (q : Sequencer)
  | finish (result : Bool) (q : Sequencer)

/-- The end of a transfer whose outcome `q` holds (rules R147, R148, R195). -/
def Sequencer.endShape (p : Params) (q : Sequencer) : Shape :=
  if q.mode = .xfer then .finish q.xok { q with result := some q.xok, mode := .none, st := .idle } else .move (identityContinue p q)

/-- The shape of the step that the registers `q` take next. -/
def Sequencer.shape (p : Params) (q : Sequencer) : Shape :=
  match q.st with
  | .idle => .still
  | .check =>
    .move
      (if q.wn.toNat = 0 ∧ q.rn.toNat = 0 then { q with cause := .malformed, st := .doneFail }
       else if q.wn.toNat = 1 then { q with st := .w1Sa }
       else if q.wn.toNat ≥ 2 then { q with st := .wsSa }
       else { q with st := .rphase })
  | .rphase =>
    .move { q with st := if q.rn.toNat = 1 then .r1Sa else if q.rn.toNat ≥ 2 then .rsSa else .doneOk }
  | .w1Sa => .address .write .w1Put
  | .w1Put => .load 0 .w1Cmd
  | .w1Cmd => .command .singleSend .w1Poll
  | .w1Poll => .poll (leaveTo .w1Err q)
  | .w1Err => .check (afterWrite q)
  | .wsSa => .address .write .wsPut
  | .wsPut => .load 0 .wsCmd
  | .wsCmd => .command .burstSendStart .wsPoll
  | .wsPoll => .poll (afterFirst q.wn .wmSa .wfSa q)
  | .wmSa => .address .write .wmPut
  | .wmPut => .load q.i.toNat .wmCmd
  | .wmCmd => .command .burstSendContinue .wmPoll
  | .wmPoll => .poll (leaveTo .wmErr q)
  | .wmErr => .check (afterMiddle q.wn .wmSa .wfSa q)
  | .wfSa => .address .write .wfPut
  | .wfPut => .load (lastIndex q.wn) .wfCmd
  | .wfCmd => .command .burstSendFinish .wfPoll
  | .wfPoll => .poll (leaveTo .wfErr q)
  | .wfErr => .check (afterWrite q)
  | .r1Sa => .address .read .r1Cmd
  | .r1Cmd => .command .singleReceiveNack .r1Poll
  | .r1Poll => .poll (leaveTo .r1Err q)
  | .r1Err => .check (leaveTo .r1Get q)
  | .r1Get => .pull 0 (leaveTo .doneOk q)
  | .rsSa => .address .read .rsCmd
  | .rsCmd => .command .burstReceiveStart .rsPoll
  | .rsPoll => .poll (leaveTo .rsGet q)
  | .rsGet => .pull 0 (afterFirst q.rn .rmSa .rfSa q)
  | .rmSa => .address .read .rmCmd
  | .rmCmd => .command .burstReceiveContinue .rmPoll
  | .rmPoll => .poll (leaveTo .rmGet q)
  | .rmGet => .pull q.i.toNat (afterMiddle q.rn .rmSa .rfSa q)
  | .rfSa => .address .read .rfCmd
  | .rfCmd => .command .burstReceiveFinish .rfPoll
  | .rfPoll => .poll (leaveTo .rfGet q)
  | .rfGet => .pull (lastIndex q.rn) (leaveTo .rpCmd q)
  | .rpCmd => .command .burstReceiveStop .rpPoll
  | .rpPoll => .poll (leaveTo .rpErr q)
  | .rpErr => .check (leaveTo .doneOk q)
  | .doneOk => q.succeeded.endShape p
  | .doneFail => q.failed.endShape p
  | .idFill =>
    .fill
      (if q.j.toNat < 16 then bufferAddr q.snp q.j.toNat else bufferAddr q.macp (q.j.toNat - 16))
      (afterSentinel 21 .idSn q)
  | .idSn =>
    .move
      { q with
        idstg := .sn, sa := p.idSlaveAddr, wsrc := .const, wk := p.snWordAddr, wn := 1, rp := q.snp, rn := p.snLen
        st := .check }
  | .idRefillSn => .fill (bufferAddr q.snp q.j.toNat) (afterSentinel 15 .idMac q)
  | .idMac =>
    .move
      { q with
        idstg := .mac, sa := p.macSlaveAddr, wsrc := .const, wk := p.macWordAddr, wn := 1, rp := q.macp
        rn := p.macLen, st := .check }
  | .idRefillMac => .fill (bufferAddr q.macp q.j.toNat) (afterSentinel 5 .idEnd q)
  | .idEnd => .finish q.xok { q with result := some q.xok, mode := .none, st := .idle }

/-- A state with this shape, and the shared step it takes. -/
def Shape.run (n : Nat) (s : State) : Shape → Result
  | .still => .next s
  | .address r next => saStep n r next s
  | .load i next => putStep n i next s
  | .command c next => cmdStep n c next s
  | .poll q => pollStep n (fun _ => q) s
  | .check q => errStep n (fun _ => q) s
  | .pull i q => getStep n i (fun _ => q) s
  | .fill a q => sentinelStep n a (fun _ => q) s
  | .move q => .next (s.setSeq n q)
  | .finish b q => .next ((s.setSeq n q).logDone n b)

/-- Only the value of `leave` at the sequencer's own registers matters. -/
theorem pollStep_leave (n : Nat) (f : Sequencer → Sequencer) (s : State) :
    pollStep n f s = pollStep n (fun _ => f (s.seq n)) s := rfl

/-- Only the value of `leave` at the sequencer's own registers matters. -/
theorem errStep_leave (n : Nat) (f : Sequencer → Sequencer) (s : State) :
    errStep n f s = errStep n (fun _ => f (s.seq n)) s := by
  have h : (portGetError (.inst n) s).2.seq n = s.seq n := by
    simp only [State.seq, (portGetError_same (.inst n) s).1]
  simp only [errStep, h]

/-- Only the value of `leave` at the sequencer's own registers matters. -/
theorem getStep_leave (n i : Nat) (f : Sequencer → Sequencer) (s : State) :
    getStep n i f s = getStep n i (fun _ => f (s.seq n)) s := by
  rcases getStep_cases n i f s with ⟨h, e⟩ | ⟨h, b, u, hu, e⟩ <;>
    rcases getStep_cases n i (fun _ => f (s.seq n)) s with ⟨h', e'⟩ | ⟨h', b', u', hu', e'⟩
  · rw [e, e']
  · rw [h] at h'; cases h'
  · rw [h] at h'; cases h'
  · rw [hu] at hu'; cases hu'; rw [e, e']

/-- Only the value of `leave` at the sequencer's own registers matters. -/
theorem sentinelStep_leave (n a : Nat) (f : Sequencer → Sequencer) (s : State) :
    sentinelStep n a f s = sentinelStep n a (fun _ => f (s.seq n)) s := by
  rcases sentinelStep_cases n a f s with ⟨h, e⟩ | ⟨h, e⟩ <;>
    rcases sentinelStep_cases n a (fun _ => f (s.seq n)) s with ⟨h', e'⟩ | ⟨h', e'⟩
  · rw [e, e']
  · rw [h] at h'; cases h'
  · rw [h] at h'; cases h'
  · rw [e, e']
    simp

/-- The end of a transfer is its shape. -/
theorem endTransfer_shape (n : Nat) (q : Sequencer) (s : State) :
    endTransfer n q s = (q.endShape s.cfg).run n s := by
  unfold endTransfer Sequencer.endShape
  split_ifs
  · simp [Shape.run, completeRequest, State.setSeq, State.seq]
  · rfl

/-- Every step is the shared step of its state's shape. -/
theorem seqStep_shape (n : Nat) (s : State) : seqStep n s = ((s.seq n).shape s.cfg).run n s := by
  unfold seqStep Sequencer.shape
  cases h : (s.seq n).st <;> simp only [Shape.run]
  case check => unfold fsmCheck; dsimp only; split_ifs <;> rfl
  case doneOk => exact endTransfer_shape n _ s
  case doneFail => exact endTransfer_shape n _ s
  case w1Err => exact errStep_leave n _ s
  case wmErr => exact errStep_leave n _ s
  case wfErr => exact errStep_leave n _ s
  case r1Err => exact errStep_leave n _ s
  case rpErr => exact errStep_leave n _ s
  case r1Get => exact getStep_leave n _ _ s
  case rsGet => exact getStep_leave n _ _ s
  case rmGet => exact getStep_leave n _ _ s
  case rfGet => exact getStep_leave n _ _ s
  case idFill => exact sentinelStep_leave n _ _ s
  case idRefillSn => exact sentinelStep_leave n _ _ s
  case idRefillMac => exact sentinelStep_leave n _ _ s
  all_goals rfl

/-- What a step with this shape leaves in the registers `q` and in the controller `k` it drives, where it goes on. -/
def Shape.Moves (p : Params) (q : Sequencer) (k : Controller) (q' : Sequencer) (k' : Controller) : Shape → Prop
  | .still => False
  | .address r next => k.busy = false ∧ q' = { q with st := next } ∧ k' = k.address q.sa r
  | .load _ next => k.busy = false ∧ q' = { q with st := next } ∧ ∃ b, k' = k.load b
  | .command c next => k.busy = false ∧ c.dir = k.rw ∧ q' = { q with tc := 0, st := next } ∧ k' = k.issue c
  | .poll r =>
    k' = k ∧
      (k.busy = false ∧ q' = r ∨
        k.busy = true ∧ timedOut p.busyTimeout q.tc = true ∧ q' = { q with cause := .timeout, st := .doneFail } ∨
        k.busy = true ∧ timedOut p.busyTimeout q.tc = false ∧ ∃ v, q' = { q with tc := v })
  | .check r => k' = k ∧ (q' = r ∨ q' = { q with cause := .busError, st := .doneFail })
  | .pull _ r => k' = k ∧ q' = r
  | .fill _ r => k' = k ∧ q' = r
  | .move r => k' = k ∧ q' = r
  | .finish _ r => k' = k ∧ q' = r

/-- What every sequencer step leaves as it was, and how it moves: one instance, its own controller, one byte of memory at
most, histories only appended to; `HH` by `Done` exactly where the shape is `finish`. -/
structure SeqEffect (n : Nat) (s t : State) (q' : Sequencer) (k' : Controller) : Prop where
  around : s.SameAround t
  seqs : t.seqs = Sparse.put Sequencer.reset s.seqs n q'
  ctl : ∀ g, t.ctl g = if g = (s.seq n).ctlid then k' else s.ctl g
  ctls_wf : Sparse.wf Controller.reset s.ctls = true → Sparse.wf Controller.reset t.ctls = true
  mem_wf : Sparse.wf unlistedByte s.mem = true → Sparse.wf unlistedByte t.mem = true
  byte : ∀ a, t.byteAt a ≠ s.byteAt a →
    ∃ i q, (i = a ∧ (s.seq n).shape s.cfg = .fill i q ∨
      (bufferAddr (s.seq n).rp i = a ∧ (s.seq n).shape s.cfg = .pull i q)) ∧ s.admits .write a = true
  h : s.h <+: t.h
  mh : s.mh <+: t.mh
  hh : t.hh = match (s.seq n).shape s.cfg with
    | .finish b _ => s.hh ++ [.done n b]
    | _ => s.hh
  moves : ((s.seq n).shape s.cfg).Moves s.cfg (s.seq n) (s.ctl (s.seq n).ctlid) q' k'

theorem State.ctl_of_setCtl {s t : State} {g : Handle} {k : Controller} (h : t.ctls = (s.setCtl g k).ctls) (g' : Handle) :
    t.ctl g' = if g' = g then k else s.ctl g' := by
  by_cases e : g' = g
  · subst e
    simp [State.ctl, h]
  · have : ¬g'.toNat = g.toNat := fun hh => e (BitVec.eq_of_toNat_eq hh)
    simp [State.ctl, h, e, this]

theorem State.ctl_of_same (s t : State) (h : t.ctls = s.ctls) (n : Nat) (g : Handle) :
    t.ctl g = if g = (s.seq n).ctlid then s.ctl (s.seq n).ctlid else s.ctl g := by
  have : t.ctl g = s.ctl g := by simp [State.ctl, h]
  rw [this]
  split
  · rename_i e
    rw [e]
  · rfl

/-- THE INVERSION OF A SEQUENCER STEP: nothing happens (`IDLE`, or stuck), or it moves as `SeqEffect` says. -/
theorem seqStep_effect {n : Nat} {s t : State} (h : seqStep n s = .next t) :
    (t = s ∧ ((s.seq n).shape s.cfg = .still ∨ ∃ i q, (s.seq n).shape s.cfg = .load i q ∨
      (∃ q', (s.seq n).shape s.cfg = .pull i q') ∨ ∃ q', (s.seq n).shape s.cfg = .fill i q')) ∨
      ∃ q' k', SeqEffect n s t q' k' := by
  rw [seqStep_shape] at h
  cases hs : (s.seq n).shape s.cfg with
  | still => rw [hs] at h; cases h; exact .inl ⟨rfl, .inl rfl⟩
  | address r nx =>
    rw [hs] at h
    rcases saStep_cases n r nx s with ⟨_, e⟩ | ⟨hb, e⟩ <;> rw [Shape.run, e] at h <;> cases h
    refine .inr ⟨{ s.seq n with st := nx }, _, ⟨rfl, rfl, rfl, rfl, rfl, rfl⟩, rfl, State.ctl_of_setCtl rfl,
      Sparse.wf_put _ _ _ _, id, fun a ha => absurd rfl ha, List.prefix_append _ _, List.prefix_refl _, ?_, ?_⟩
    · rw [hs]; rfl
    · rw [hs]; exact ⟨hb, rfl, rfl⟩
  | load i nx =>
    rw [hs] at h
    rcases putStep_cases n i nx s with ⟨_, e⟩ | ⟨b, u, hw, ⟨_, e⟩ | ⟨hb, e⟩⟩ <;> rw [Shape.run, e] at h <;> cases h
    · exact .inl ⟨rfl, .inr ⟨i, nx, .inl rfl⟩⟩
    obtain ⟨h1, h2, h3, h4, h5, h6, h7, h8, h9, h10, h11⟩ := writeByte_same hw
    have hu : u.seq n = s.seq n := by simp [State.seq, h1]
    refine .inr ⟨{ s.seq n with st := nx }, (s.ctl (s.seq n).ctlid).load b,
      ⟨by simp [State.goto, h4], by simp [State.goto, h5], by simp [State.goto, h8], by simp [State.goto, h9],
        by simp [State.goto, h10], by simp [State.goto, h11]⟩, by simp [State.goto, h1, hu],
      State.ctl_of_setCtl (by simp [State.goto, h2]), ?_, by simp [State.goto, h3], ?_, by simp [State.goto, h6],
      ?_, ?_, ?_⟩
    · simp only [State.goto, State.ctls_setSeq, State.ctls_logPort, State.ctls_setCtl, h2]
      exact Sparse.wf_put _ _ _ _
    · intro a ha
      exact absurd (by simp [State.byteAt, State.goto, h3]) ha
    · rcases writeByte_cases n i s with ⟨_, e'⟩ | ⟨_, e'⟩ <;> rw [e'] at hw
      · cases hw
        exact List.prefix_refl _
      · rcases memRead_cases n (bufferAddr (s.seq n).wp i) s with ⟨_, e2⟩ | ⟨_, e2⟩ <;> rw [e2] at hw <;> cases hw
        rcases s.load_cases (some n) (bufferAddr (s.seq n).wp i) with ⟨_, e3⟩ | ⟨_, e3⟩ <;> simp [State.goto, e3]
    · rw [hs]; simp [State.goto, h7]
    · rw [hs]; exact ⟨hb, rfl, b, rfl⟩
  | command c nx =>
    rw [hs] at h
    rcases cmdStep_cases n c nx s with ⟨_, e⟩ | ⟨_, _, e⟩ | ⟨hb, hd, e⟩ <;> rw [Shape.run, e] at h <;> cases h
    refine .inr ⟨{ s.seq n with tc := 0, st := nx }, _, ⟨rfl, rfl, rfl, rfl, rfl, rfl⟩, rfl, State.ctl_of_setCtl rfl,
      Sparse.wf_put _ _ _ _, id, fun a ha => absurd rfl ha, List.prefix_append _ _, List.prefix_refl _, ?_, ?_⟩
    · rw [hs]; rfl
    · rw [hs]; exact ⟨hb, hd, rfl, rfl⟩
  | poll q =>
    rw [hs] at h
    rcases pollStep_cases n (fun _ => q) s with ⟨hb, e⟩ | ⟨hb, ht, e⟩ | ⟨hb, ht, e⟩ <;> rw [Shape.run, e] at h <;> cases h
    · refine .inr ⟨q, _, ⟨rfl, rfl, rfl, rfl, rfl, rfl⟩, rfl, s.ctl_of_same _ rfl n, id, id,
        fun a ha => absurd rfl ha, List.prefix_append _ _, List.prefix_refl _, ?_, ?_⟩
      · rw [hs]; rfl
      · rw [hs]; exact ⟨rfl, .inl ⟨hb, rfl⟩⟩
    · refine .inr ⟨{ s.seq n with cause := .timeout, st := .doneFail }, _, ⟨rfl, rfl, rfl, rfl, rfl, rfl⟩, rfl,
        s.ctl_of_same _ rfl n, id, id, fun a ha => absurd rfl ha, List.prefix_append _ _, List.prefix_refl _, ?_, ?_⟩
      · rw [hs]; rfl
      · rw [hs]; exact ⟨rfl, .inr (.inl ⟨hb, ht, rfl⟩)⟩
    · rcases countPoll_cases n (s.logPort (.inst n) (.isBusy true)) with ⟨_, c⟩ | ⟨_, c⟩ <;> rw [c]
      · refine .inr ⟨{ s.seq n with tc := BitVec.ofNat 32 ((s.seq n).tc.toNat + 1) }, _,
          ⟨rfl, rfl, rfl, rfl, rfl, rfl⟩, rfl, s.ctl_of_same _ rfl n, id, id, fun a ha => absurd rfl ha,
          List.prefix_append _ _, List.prefix_refl _, ?_, ?_⟩
        · rw [hs]; rfl
        · rw [hs]; exact ⟨rfl, .inr (.inr ⟨hb, ht, _, rfl⟩)⟩
      · refine .inr ⟨{ s.seq n with tc := Config.freeCount s.draws }, _,
          ⟨rfl, rfl, rfl, rfl, rfl, rfl⟩, rfl, s.ctl_of_same _ rfl n, id, id, fun a ha => absurd rfl ha,
          List.prefix_append _ _, List.prefix_refl _, ?_, ?_⟩
        · rw [hs]; rfl
        · rw [hs]; exact ⟨rfl, .inr (.inr ⟨hb, ht, _, rfl⟩)⟩
  | check q =>
    rw [hs] at h
    obtain ⟨er, u, hu, e⟩ := errStep_cases n (fun _ => q) s
    have g := portGetError_same (.inst n) s
    rw [hu] at g
    obtain ⟨g1, g2, g3, g4, g5, g6, g7, g8, g9, g10, g11, g12⟩ := g
    dsimp only at g1 g2 g3 g4 g5 g6 g7 g8 g9 g10 g11 g12
    have hus : u.seq n = s.seq n := by simp only [State.seq, g1]
    rcases e with ⟨_, e⟩ | ⟨_, e⟩ <;> rw [Shape.run, e] at h <;> cases h
    · refine .inr ⟨{ s.seq n with cause := .busError, st := .doneFail }, _, ⟨g4, g5, g8, g9, g10, g11⟩,
        by simp [fail, hus, g1], s.ctl_of_same _ g2 n, by simp [fail, g2], by simp [fail, g3],
        fun a ha => absurd (by simp [State.byteAt, fail, g3]) ha, by simp [fail, g12], by simp [fail, g6], ?_, ?_⟩
      · rw [hs]; simp [fail, g7]
      · rw [hs]; exact ⟨rfl, .inr rfl⟩
    · refine .inr ⟨q, _, ⟨g4, g5, g8, g9, g10, g11⟩,
        by simp [g1], s.ctl_of_same _ g2 n, by simp [g2], by simp [g3],
        fun a ha => absurd (by simp [State.byteAt, g3]) ha, by simp [g12], by simp [g6], ?_, ?_⟩
      · rw [hs]; simp [g7]
      · rw [hs]; exact ⟨rfl, .inl rfl⟩
  | pull i q =>
    rw [hs] at h
    rcases getStep_cases n i (fun _ => q) s with ⟨_, e⟩ | ⟨ha, b, u, hu, e⟩ <;> rw [Shape.run, e] at h <;> cases h
    · exact .inl ⟨rfl, .inr ⟨i, .idle, .inr (.inl ⟨q, rfl⟩)⟩⟩
    have g := portGetData_same (.inst n) s
    rw [hu] at g
    obtain ⟨g1, g2, g3, g4, g5, g6, g7, g8, g9, g10, g11, g12⟩ := g
    dsimp only at g1 g2 g3 g4 g5 g6 g7 g8 g9 g10 g11 g12
    refine .inr ⟨q, _, ⟨by simp [g4], by simp [g5], by simp [g8], by simp [g9], by simp [g10], by simp [g11]⟩,
      by simp [g1], s.ctl_of_same _ (by simp [g2]) n, by simp [g2], ?_, ?_, by simp [g12], by simp [g6], ?_, ?_⟩
    · intro hm
      exact State.store_keeps_wf _ _ _ _ (by rw [g3]; exact hm)
    · intro a hne
      refine ⟨i, q, .inr ⟨?_, hs⟩, ?_⟩ <;>
      · by_contra hc
        apply hne
        have hx : a ≠ bufferAddr (s.seq n).rp i := by
          rintro rfl
          first | exact hc rfl | exact hc ha
        rw [State.byteAt, State.mem_setSeq, State.mem_logMem, ← State.byteAt, State.byteAt_store_ne _ _ _ _ _ hx]
        simp [State.byteAt, g3]
    · rw [hs]; simp [g7]
    · rw [hs]; exact ⟨rfl, rfl⟩
  | fill a q =>
    rw [hs] at h
    rcases sentinelStep_cases n a (fun _ => q) s with ⟨_, e⟩ | ⟨ha, e⟩ <;> rw [Shape.run, e] at h <;> cases h
    · exact .inl ⟨rfl, .inr ⟨a, .idle, .inr (.inr ⟨q, rfl⟩)⟩⟩
    refine .inr ⟨q, _, ⟨by simp, by simp, by simp, by simp, by simp, by simp⟩, by simp,
      s.ctl_of_same _ (by simp) n, by simp, State.store_keeps_wf _ _ _ _, ?_, by simp, by simp, ?_, ?_⟩
    · intro c hne
      refine ⟨a, q, .inl ⟨?_, hs⟩, ?_⟩ <;>
      · by_contra hc
        apply hne
        have hx : c ≠ a := by
          rintro rfl
          first | exact hc rfl | exact hc ha
        rw [State.byteAt, State.mem_setSeq, State.mem_logMem, ← State.byteAt, State.byteAt_store_ne _ _ _ _ _ hx]
    · rw [hs]; simp
    · rw [hs]; exact ⟨rfl, rfl⟩
  | move q =>
    rw [hs] at h
    cases h
    refine .inr ⟨q, _, ⟨rfl, rfl, rfl, rfl, rfl, rfl⟩, rfl, s.ctl_of_same _ rfl n, id, id,
      fun a ha => absurd rfl ha, List.prefix_refl _, List.prefix_refl _, ?_, ?_⟩
    · rw [hs]; rfl
    · rw [hs]; exact ⟨rfl, rfl⟩
  | finish b q =>
    rw [hs] at h
    cases h
    refine .inr ⟨q, _, ⟨rfl, rfl, rfl, rfl, rfl, rfl⟩, rfl, s.ctl_of_same _ rfl n, id, id,
      fun a ha => absurd rfl ha, List.prefix_refl _, List.prefix_refl _, ?_, ?_⟩
    · rw [hs]; rfl
    · rw [hs]; exact ⟨rfl, rfl⟩

end Sys2Proof.Machine
end

