-- ==== Sys2Proof/Laws/PerInstr.lean ====
section
/-! SUPPORT. Laws stated instruction by instruction. `TableRow`: an encoded instruction is a word of its own row of the opcode
table (rules R81 to R84, R89 to R92, R95, R96). -/

namespace Sys2Proof.Laws

/-- The first word of the encoded instruction has its row's width and matches its row. -/
def TableRow.Statement (i : Instr) : Prop :=
  ∃ r ∈ opcodeTable, r.mnemonic = i.mnemonic ∧ r.width = (encode i).width ∧
    r.matchesWord (encode i).firstWord = true

theorem TableRow.headerWord_fixed :
    (headerWord 0x1 0 &&& 0xFFFFFFFF == 0x10000000) = true ∧ (headerWord 0x3 0 &&& 0xFFFFFFFF == 0x30000000) = true := by
  decide

theorem TableRow.init (cid : Handle) : TableRow.Statement (.init cid) :=
  ⟨⟨"INIT", 32, 0x10000000, 0xFFFFFFFF⟩, by decide, rfl, rfl, TableRow.headerWord_fixed.1⟩

theorem TableRow.headerWord_xfer : ∀ sa : SlaveAddr, headerWord 0x2 sa &&& 0xFFFFFF80 == 0x20000000 := by decide

theorem TableRow.xfer (sa : SlaveAddr) (wp wn rp rn : Word) : TableRow.Statement (.xfer sa wp wn rp rn) :=
  ⟨⟨"XFER", 32, 0x20000000, 0xFFFFFF80⟩, by decide, rfl, rfl, TableRow.headerWord_xfer sa⟩

theorem TableRow.rdid (snp macp : Word) : TableRow.Statement (.rdid snp macp) :=
  ⟨⟨"RDID", 32, 0x30000000, 0xFFFFFFFF⟩, by decide, rfl, rfl, TableRow.headerWord_fixed.2⟩

theorem TableRow.portWord_row : ∀ b : Byte,
    (portWord 0x1 b).setWidth 32 &&& 0xFF00 == (0x1000 : Word) ∧ (portWord 0x2 b).setWidth 32 &&& 0xFF00 == (0x2000 : Word) := by
  decide

theorem TableRow.ssa (a : SlaveAddr) (r : Machine.Dir) : TableRow.Statement (.ssa a r) :=
  ⟨⟨"SSA", 16, 0x1000, 0xFF00⟩, by decide, rfl, rfl, (TableRow.portWord_row (a ++ r.bit)).1⟩

theorem TableRow.put (b : Byte) : TableRow.Statement (.put b) :=
  ⟨⟨"PUT", 16, 0x2000, 0xFF00⟩, by decide, rfl, rfl, (TableRow.portWord_row b).2⟩

theorem TableRow.get : TableRow.Statement .get := ⟨⟨"GET", 16, 0x3000, 0xFFFF⟩, by decide, rfl, rfl, rfl⟩

theorem TableRow.cmdSingleSend : TableRow.Statement .cmdSingleSend :=
  ⟨⟨"CMD.SINGLE_SEND", 16, 0x4000, 0xFFFF⟩, by decide, rfl, rfl, rfl⟩

theorem TableRow.cmdBurstSendStart : TableRow.Statement .cmdBurstSendStart :=
  ⟨⟨"CMD.BURST_SEND_START", 16, 0x4001, 0xFFFF⟩, by decide, rfl, rfl, rfl⟩

theorem TableRow.cmdBurstSendContinue : TableRow.Statement .cmdBurstSendContinue :=
  ⟨⟨"CMD.BURST_SEND_CONTINUE", 16, 0x4002, 0xFFFF⟩, by decide, rfl, rfl, rfl⟩

theorem TableRow.cmdBurstSendFinish : TableRow.Statement .cmdBurstSendFinish :=
  ⟨⟨"CMD.BURST_SEND_FINISH", 16, 0x4003, 0xFFFF⟩, by decide, rfl, rfl, rfl⟩

theorem TableRow.cmdBurstReceiveStart : TableRow.Statement .cmdBurstReceiveStart :=
  ⟨⟨"CMD.BURST_RECEIVE_START", 16, 0x4004, 0xFFFF⟩, by decide, rfl, rfl, rfl⟩

theorem TableRow.cmdBurstReceiveContinue : TableRow.Statement .cmdBurstReceiveContinue :=
  ⟨⟨"CMD.BURST_RECEIVE_CONTINUE", 16, 0x4005, 0xFFFF⟩, by decide, rfl, rfl, rfl⟩

theorem TableRow.cmdBurstReceiveFinish : TableRow.Statement .cmdBurstReceiveFinish :=
  ⟨⟨"CMD.BURST_RECEIVE_FINISH", 16, 0x4006, 0xFFFF⟩, by decide, rfl, rfl, rfl⟩

theorem TableRow.cmdBurstReceiveStop : TableRow.Statement .cmdBurstReceiveStop :=
  ⟨⟨"CMD.BURST_RECEIVE_STOP", 16, 0x4007, 0xFFFF⟩, by decide, rfl, rfl, rfl⟩

theorem TableRow.cmdSingleReceiveNack : TableRow.Statement .cmdSingleReceiveNack :=
  ⟨⟨"CMD.SINGLE_RECEIVE_NACK", 16, 0x4008, 0xFFFF⟩, by decide, rfl, rfl, rfl⟩

theorem TableRow.isBusy : TableRow.Statement .isBusy := ⟨⟨"IS_BUSY", 16, 0x5000, 0xFFFF⟩, by decide, rfl, rfl, rfl⟩

theorem TableRow.getError : TableRow.Statement .getError :=
  ⟨⟨"GET_ERROR", 16, 0x6000, 0xFFFF⟩, by decide, rfl, rfl, rfl⟩

end Sys2Proof.Laws
end

