-- ==== Sys2Proof/Laws/Runs.lean ====
section
/-! SUPPORT. Steps by the turn they take, what a reset leaves as it was, and that where nothing is left to do nothing happens. -/

namespace Sys2Proof.Machine

/-- A step takes the first turn listed. -/
@[simp] theorem step_listed (s : State) (t : Turn) (e : List Turn) :
    step { s with env := t :: e } = runTurn t { s with env := e } := rfl

/-- The turn of a moment leads to the state of the next. -/
theorem IsRun.turn {turn : Nat → Turn} {state : Nat → State} (h : IsRun turn state) (i : Nat) :
    runTurn (turn i) { state i with env := [] } = .next (state (i + 1)) := h i

/-- A reset leaves memory, parameters, the record of observations and the turns to come as they were, lists no instance
and no raced byte, and empties the histories. -/
theorem resetAll_same (ds : List CtlDraw) (s : State) :
    (resetAll ds s).seqs = [] ∧ (resetAll ds s).mem = s.mem ∧ (resetAll ds s).h = [] ∧ (resetAll ds s).mh = [] ∧
      (resetAll ds s).hh = [] ∧ (resetAll ds s).cfg = s.cfg ∧ (resetAll ds s).admission = s.admission ∧
      (resetAll ds s).env = s.env ∧ (resetAll ds s).obs = s.obs ∧ (resetAll ds s).raced = [] := by
  have key : ∀ (ds : List CtlDraw) (t : State),
      let u := ds.foldl (fun t d => t.setCtl d.handle d.controller) t
      u.seqs = t.seqs ∧ u.mem = t.mem ∧ u.h = t.h ∧ u.mh = t.mh ∧ u.hh = t.hh ∧ u.cfg = t.cfg ∧
        u.admission = t.admission ∧ u.env = t.env ∧ u.obs = t.obs ∧ u.raced = t.raced := by
    intro ds
    induction ds with
    | nil => intro t; exact ⟨rfl, rfl, rfl, rfl, rfl, rfl, rfl, rfl, rfl, rfl⟩
    | cons d ds ih => intro t; exact ih (t.setCtl d.handle d.controller)
  exact key ds { s with seqs := [], h := [], mh := [], hh := [], raced := [] }

/-- After a reset a controller is as the last draw for it has it, or, with none, as it was. -/
theorem resetAll_ctl (ds : List CtlDraw) (s : State) (h : Handle) :
    (resetAll ds s).ctl h = ((ds.reverse.find? (fun d => d.handle == h)).map CtlDraw.controller).getD (s.ctl h) := by
  have key : ∀ (ds : List CtlDraw) (t : State),
      (ds.foldl (fun t d => t.setCtl d.handle d.controller) t).ctl h =
        ((ds.reverse.find? (fun d => d.handle == h)).map CtlDraw.controller).getD (t.ctl h) := by
    intro ds
    induction ds with
    | nil => intro t; rfl
    | cons d ds ih =>
      intro t
      rw [List.foldl_cons, ih, List.reverse_cons, List.find?_append, State.ctl_setCtl]
      cases ds.reverse.find? (fun d => d.handle == h) with
      | some e => rfl
      | none => by_cases e : h = d.handle <;> simp [e, eq_comm (a := d.handle)]
  exact key ds { s with seqs := [], h := [], mh := [], hh := [], raced := [] }

/-- Where nothing is left to do, no sequencer and no controller changes anything (rule R253, decision D36). -/
theorem State.Quiescent.still {s : State} (h : s.Quiescent) :
    (∀ n, runTurn (.seq n) s = .next s) ∧ ∀ g e d, runTurn (.complete g e d) s = .next s :=
  ⟨fun n => by simp [runTurn, seqStep, h.1 n], fun g e d => by simp [runTurn, completeCommand, h.2 g]⟩

/-- No instance that does not exist is ever enabled. -/
theorem State.Inv.not_enabled_of_absent {s : State} (h : s.Inv) {n : Nat} (hn : s.cfg.ninst ≤ n) : ¬s.Enabled n := by
  intro e
  apply e.1
  rw [h.absent n hn]
  rfl

end Sys2Proof.Machine
end

