-- ==== Sys2Proof/Tests/Slice0.lean ====
section
/-! SUPPORT. Tests against the spec's own examples and vectors, and for every statement with hypotheses a state and operands
that meet them all. -/

namespace Sys2Proof.Tests

open Sys2Proof.Machine

/-! ## Small states -/

/-- What a result holds of the next state; none after a fault or a refusal. -/
def after {α : Type} (r : Result) (f : State → α) : Option α :=
  match r with
  | .next s => some (f s)
  | .fault _ => none
  | .refused _ => none

/-- The fault of a result. -/
def faultOf (r : Result) : Option Fault :=
  match r with
  | .next _ => none
  | .fault e => some e
  | .refused _ => none

/-- The refusal of a result. -/
def refusalOf (r : Result) : Option Refusal :=
  match r with
  | .next _ => none
  | .fault _ => none
  | .refused e => some e

/-- What a decoder answers, none where it refuses. -/
def read {ε α : Type} (x : Except ε α) : Option α :=
  match x with
  | .ok a => some a
  | .error _ => none

/-- One bound instance, number 0, in state `st` of a three-byte write and a three-byte read, at its middle byte. -/
def at_ (st : St) : Sequencer :=
  { Sequencer.reset with
    st := st, mode := .xfer, bound := true, ctlid := 7, sa := 0x50, wp := 0x100, wn := 3, rp := 0x200, rn := 3, i := 1 }

/-- An instance in a state of the Identity Reader's request. -/
def ident (st : St) : Sequencer :=
  { at_ st with mode := .ident, wsrc := .const, wk := 0x80, wn := 1, snp := 0x300, macp := 0x400 }

/-- A bound instance in `IDLE`. -/
def idleQ : Sequencer := { at_ .idle with mode := .none }

/-- A controller with a command in flight. -/
def busyK : Controller := { Controller.reset with busy := true, infl := some .singleSend }

/-- An idle controller addressed for read, which has received 0x3C with no error. -/
def readK : Controller := { Controller.reset with rw := .read, data := some 0x3C, err := some .none }

/-- One instance and the controller at handle 7, whose port instructions come from outside. -/
def one (q : Sequencer) (k : Controller) : State :=
  { State.reset with seqs := [(0, q)], ctls := [(7, k)], portBy := .driver 7 }

theorem one_seq (q : Sequencer) (k : Controller) : (one q k).seq 0 = q := rfl

theorem one_other (q : Sequencer) (k : Controller) (m : Nat) (h : m ≠ 0) : (one q k).seq m = Sequencer.reset := by
  simp [State.seq, one, Sparse.get, Ne.symm h]

theorem one_ctl (q : Sequencer) (k : Controller) (h : Handle) :
    (one q k).ctl h = if h.toNat = 7 then k else Controller.reset := by
  by_cases e : h.toNat = 7
  · rw [if_pos e]
    simp [State.ctl, one, Sparse.get, e]
  · rw [if_neg e]
    simp [State.ctl, one, Sparse.get, Ne.symm e]

theorem one_admitted (q : Sequencer) (k : Controller) (a : Access) (base len : Nat) (h : base + len ≤ 2 ^ 32) :
    (one q k).Admitted a base len := by
  intro i hi
  have : base + i < 2 ^ 32 := by omega
  show (decide (base + i < 2 ^ 32) && [Region.everything].any (fun r => r.admits a (base + i))) = true
  cases a <;> simp [Region.everything, Region.admits] <;> omega

/-! ## Well-formedness: a term that each check refuses -/

theorem test_wf_instr : (Instr.xfer 0x7F 0 0 0 0).wellFormed = true := by decide
theorem test_wf_params : Params.normative.wellFormed = true := by decide
theorem test_wf_timeout_one : { Params.normative with busyTimeout := some 1 }.wellFormed = true := by decide
theorem test_ill_timeout_zero : { Params.normative with busyTimeout := some 0 }.wellFormed = false := by decide
theorem test_ill_no_instance : { Params.normative with ninst := 0 }.wellFormed = false := by decide
theorem test_ill_width : { Params.normative with aw := 31 }.wellFormed = false := by decide
theorem test_ill_commands : { Params.normative with ncmd := 8 }.wellFormed = false := by decide
theorem test_ill_count : { Params.normative with maxCnt := 2 ^ 16 }.wellFormed = false := by decide
/-- the types are built at the widths of R6 -/
theorem test_widths :
    SlaveAddr = BitVec Params.normative.saW ∧ Byte = BitVec Params.normative.bW ∧ Word = BitVec Params.normative.cntW ∧
      Word = BitVec Params.normative.aw ∧ Handle = BitVec Params.normative.cidW ∧ Cmd.all.length = Params.normative.ncmd :=
  ⟨rfl, rfl, rfl, rfl, rfl, rfl⟩
theorem test_ill_init : (AsmReq.init (2 ^ 32)).wellFormed = false := by decide
theorem test_ill_xfer_sa : (AsmReq.xfer 0x80 0 0 0 0).wellFormed = false := by decide
theorem test_ill_xfer_rn : (AsmReq.xfer 0x50 0 0 0 (2 ^ 32)).wellFormed = false := by decide
theorem test_ill_rdid : (AsmReq.rdid (2 ^ 32) 0).wellFormed = false := by decide
theorem test_ill_xferw : (AsmReq.xferw 0x80 0 0).wellFormed = false := by decide
theorem test_ill_xferr : (AsmReq.xferr 0x50 (2 ^ 32) 0).wellFormed = false := by decide
theorem test_ill_eewr1 : (AsmReq.eewr1 0x50 (2 ^ 32)).wellFormed = false := by decide
theorem test_wf_asm_bounds : (AsmReq.xfer 0x7F (2 ^ 32 - 1) 0 0 (2 ^ 32 - 1)).wellFormed = true := by decide
theorem test_ill_memory : Memory.wf [(5, 1), (5, 2)] = false ∧ Memory.wf [(5, 0)] = false := by decide

/-! ## Decoding: words written bit by bit from rules R81 to R92 -/

/-- R82: `OP` 1, the rest of the header 0 -/
theorem test_decode_init : read (decode (.request [0b00010000000000000000000000000000, 5])) = some (.init 5) := by decide

/-- R83: `OP` 2, `SA` = 101 0000, then the four operand words in their order -/
theorem test_decode_xfer :
    read (decode (.request [0b00100000000000000000000001010000, 1, 2, 3, 4])) = some (.xfer 0x50 1 2 3 4) := by decide

/-- R84: `OP` 3 -/
theorem test_decode_rdid :
    read (decode (.request [0b00110000000000000000000000000000, 6, 7])) = some (.rdid 6 7) := by decide

/-- R89: `PRIM` 1, `A` = 101 1000 in bits 7:1, `R` = 1 in bit 0 -/
theorem test_decode_ssa : read (decode (.port 0b0001000010110001)) = some (.ssa 0x58 .read) := by decide

/-- R89: `R` = 0 is write -/
theorem test_decode_ssa_write : read (decode (.port 0b0001000010100000)) = some (.ssa 0x50 .write) := by decide

/-- R90: `PRIM` 2, the byte in 7:0 -/
theorem test_decode_put : read (decode (.port 0b0010000010000001)) = some (.put 0x81) := by decide

/-- R92 -/
theorem test_decode_get : read (decode (.port 0b0011000000000000)) = some .get := by decide

/-- R91: the nine codes 0000 to 1000 -/
theorem test_decode_single_send : read (decode (.port 0b0100000000000000)) = some .cmdSingleSend := by decide
theorem test_decode_send_start : read (decode (.port 0b0100000000000001)) = some .cmdBurstSendStart := by decide
theorem test_decode_send_continue : read (decode (.port 0b0100000000000010)) = some .cmdBurstSendContinue := by decide
theorem test_decode_send_finish : read (decode (.port 0b0100000000000011)) = some .cmdBurstSendFinish := by decide
theorem test_decode_receive_start : read (decode (.port 0b0100000000000100)) = some .cmdBurstReceiveStart := by decide
theorem test_decode_receive_continue : read (decode (.port 0b0100000000000101)) = some .cmdBurstReceiveContinue := by decide
theorem test_decode_receive_finish : read (decode (.port 0b0100000000000110)) = some .cmdBurstReceiveFinish := by decide
theorem test_decode_receive_stop : read (decode (.port 0b0100000000000111)) = some .cmdBurstReceiveStop := by decide
theorem test_decode_receive_nack : read (decode (.port 0b0100000000001000)) = some .cmdSingleReceiveNack := by decide

/-- R92 -/
theorem test_decode_is_busy : read (decode (.port 0b0101000000000000)) = some .isBusy := by decide
theorem test_decode_get_error : read (decode (.port 0b0110000000000000)) = some .getError := by decide

/-- 95 E3, E5, E7, E8, E9, E10: reserved headers -/
theorem test_reserved_headers :
    ([0x20000080, 0x10000001, 0x30000058, 0x00000000, 0x40000000, 0xF0000050] : List Word).map
      (fun h => read (decodeHeader h)) = [none, none, none, none, none, none] := by decide

/-- R94: the neighbours of the valid port words -/
theorem test_reserved_port_words :
    ([0x0FFF, 0x1100, 0x2100, 0x3001, 0x4009, 0x4010, 0x5001, 0x6800, 0x7000, 0xFFFF] : List PortWord).map
      (fun w => read (decode (.port w))) = List.replicate 10 none := by decide

/-- R95: the words the sequencer builds (95 PT1, PT2, PT4) -/
theorem test_encode_words :
    encode (.ssa 0x50 .read) = .port 0x10A1 ∧ encode (.put 0x9A) = .port 0x209A ∧
      encode .cmdSingleReceiveNack = .port 0x4008 ∧ encode (.init 5) = .request [0x10000000, 5] := by decide

/-- The table's numbering: the header is the lowest word, absent operand words are 0 -/
theorem test_table_word : decodeTableWord 32 0x2000007F = some (.xfer 0x7F 0 0 0 0) := by decide
theorem test_table_word_operands : decodeTableWord 64 0x0000000510000000 = some (.init 5) := by decide
theorem test_table_word_port : decodeTableWord 16 0x10B1 = some (.ssa 0x58 .read) := by decide

/-- R97, R98: a line of text, and a pseudo-instruction's expansion -/
theorem test_assemble_line :
    read (assembleLine ['X', 'F', 'E', 'R', 'W', ' ', '0', 'x', '5', '0', ',', '2', '5', '6', ',', '3', ';', 'w']) =
      some (some (.request [0x20000050, 256, 3, 0, 0])) := by decide

/-! ## One step of each instruction -/

/-- R203: `INIT 5` binds and completes -/
theorem test_init :
    after (exec (.init 5) State.reset) (fun t => ((t.seq 0).bound, (t.seq 0).ctlid, (t.seq 0).result, t.hh)) =
      some (true, 5, some true, [.done 0 true]) := by decide

/-- R203: `Overlap` -/
theorem test_init_overlap : faultOf (exec (.init 5) (one (at_ .w1Poll) busyK)) = some .overlap := by decide

/-- R142's example: `XFER 0x50, 0x100, 2, 0x200, 0` -/
theorem test_xfer :
    after (exec (.xfer 0x50 0x100 2 0x200 0) (one idleQ readK)) (fun t => ((t.seq 0).wn, (t.seq 0).rn, (t.seq 0).st)) =
      some (2, 0, .check) := by decide

/-- 95 F1: a transfer before `INIT` -/
theorem test_xfer_not_bound : faultOf (exec (.xfer 0x50 0 1 0 0) State.reset) = some .notBound := by decide

/-- R192's example -/
theorem test_rdid :
    after (exec (.rdid 0x20000200 0x20000210) (one idleQ readK)) (fun t => ((t.seq 0).macp, (t.seq 0).st, (t.seq 0).j)) =
      some (0x20000210, .idFill, 0) := by decide

/-- R111's example -/
theorem test_ssa :
    after (exec (.ssa 0x58 .read) (one idleQ Controller.reset)) (fun t => ((t.ctl 7).addr, (t.ctl 7).rw)) =
      some (0x58, .read) := by decide

/-- R128 -/
theorem test_ssa_busy : faultOf (exec (.ssa 0x58 .read) (one idleQ busyK)) = some .portBusy := by decide

/-- R112's example -/
theorem test_put : after (exec (.put 0x80) (one idleQ readK)) (fun t => (t.ctl 7).data) = some (some 0x80) := by decide

/-- R113's example; the register stays -/
theorem test_get :
    after (exec .get (one idleQ readK)) (fun t => (t.h, (t.ctl 7).data)) =
      some ([.port (.driver 7) (.getData 0x3C)], some 0x3C) := by decide

/-- R114's example -/
theorem test_send_start :
    after (exec .cmdBurstSendStart (one idleQ Controller.reset)) (fun t => ((t.ctl 7).busy, (t.ctl 7).infl)) =
      some (true, some .burstSendStart) := by decide

/-- R115, R117, R118 -/
theorem test_send_commands :
    [exec .cmdSingleSend (one idleQ Controller.reset), exec .cmdBurstSendContinue (one idleQ Controller.reset),
        exec .cmdBurstSendFinish (one idleQ Controller.reset)].map (fun r => after r (fun t => (t.ctl 7).infl)) =
      [some (some .singleSend), some (some .burstSendContinue), some (some .burstSendFinish)] := by decide

/-- R119 to R123 -/
theorem test_receive_commands :
    [exec .cmdBurstReceiveStart (one idleQ readK), exec .cmdBurstReceiveContinue (one idleQ readK),
        exec .cmdBurstReceiveFinish (one idleQ readK), exec .cmdBurstReceiveStop (one idleQ readK),
        exec .cmdSingleReceiveNack (one idleQ readK)].map (fun r => after r (fun t => (t.ctl 7).infl)) =
      [some (some .burstReceiveStart), some (some .burstReceiveContinue), some (some .burstReceiveFinish),
        some (some .burstReceiveStop), some (some .singleReceiveNack)] := by decide

/-- R129: both mismatches -/
theorem test_dir_mismatch :
    faultOf (exec .cmdSingleSend (one idleQ readK)) = some .dirMismatch ∧
      faultOf (exec .cmdBurstReceiveStop (one idleQ Controller.reset)) = some .dirMismatch := by decide

/-- R125's example -/
theorem test_is_busy :
    after (exec .isBusy (one idleQ busyK)) (fun t => t.h) = some [.port (.driver 7) (.isBusy true)] := by decide

/-- R126's example; reading does not clear -/
theorem test_get_error :
    after (exec .getError (one idleQ { readK with err := some .error })) (fun t => (t.h, (t.ctl 7).err)) =
      some ([.port (.driver 7) (.getError .error)], some .error) := by decide

/-! ## One step of the machine around them -/

/-- R124: a receive command's completion writes the byte; a send command's does not -/
theorem test_complete_receive :
    after (runTurn (.complete 7 .none 0x5A) (one idleQ { readK with busy := true, infl := some .singleReceiveNack }))
      (fun t => ((t.ctl 7).data, (t.ctl 7).err, (t.ctl 7).busy)) = some (some 0x5A, some .none, false) := by decide
theorem test_complete_send :
    after (runTurn (.complete 7 .error 0x5A) (one idleQ busyK)) (fun t => ((t.ctl 7).data, (t.ctl 7).err)) =
      some (none, some .error) := by decide

/-- R162's example: `S.WN = 4`, `S.I = 1` goes to `WM_SA`; `S.I = 2` to `WF_SA` -/
theorem test_wm_err :
    after (seqStep 0 (one { at_ .wmErr with wn := 4 } readK)) (fun t => ((t.seq 0).i, (t.seq 0).st)) =
      some (2, .wmSa) := by decide
theorem test_wm_err_last :
    after (seqStep 0 (one { at_ .wmErr with wn := 4, i := 2 } readK)) (fun t => ((t.seq 0).i, (t.seq 0).st)) =
      some (3, .wfSa) := by decide

/-- R181's example: `S.RN = 4`, `S.I = 2` -/
theorem test_rm_get :
    after (seqStep 0 (one { at_ .rmGet with rn := 4, i := 2 } { readK with data := some 0x33 }))
      (fun t => (t.byteAt 0x202, (t.seq 0).i, (t.seq 0).st)) = some (0x33, 3, .rfSa) := by decide

/-- R185's example: `S.RN = 6` -/
theorem test_rf_get :
    after (seqStep 0 (one { at_ .rfGet with rn := 6 } { readK with data := some 0x66 }))
      (fun t => (t.byteAt 0x205, (t.seq 0).st)) = some (0x66, .rpCmd) := by decide

/-- R193's example: `S.J = 16` writes the first MAC byte -/
theorem test_id_fill :
    after (seqStep 0 (one { ident .idFill with j := 16 } readK)) (fun t => (t.byteAt 0x400, (t.seq 0).j)) =
      some (0xFF, 17) := by decide

/-- R147's example: a bus error ends the request with result 0 -/
theorem test_done_fail :
    after (seqStep 0 (one { at_ .doneFail with cause := .busError } readK))
      (fun t => ((t.seq 0).result, (t.seq 0).cause, (t.seq 0).st, t.hh)) =
      some (some false, .busError, .idle, [.done 0 false]) := by decide

/-- R195: a failed serial-number transfer goes to the refill, a failed MAC transfer to its own -/
theorem test_ident_fail :
    after (seqStep 0 (one { ident .doneFail with idstg := .sn } readK)) (fun t => (t.seq 0).st) = some .idRefillSn ∧
      after (seqStep 0 (one { ident .doneFail with idstg := .mac } readK)) (fun t => (t.seq 0).st) =
        some .idRefillMac := by decide

/-- R87, 95 E11 and E12: the result word; R216: `ReadUnset` -/
theorem test_result_word :
    after (runTurn (.readResult 0) (one { idleQ with result := some true } readK)) (fun t => t.obs) =
      some [.result 0 0x00000001] := by decide
theorem test_read_unset : faultOf (runTurn (.readResult 0) State.reset) = some .readUnset := by decide

/-- The first instruction after reset: an accepted word is the next step (log entry 15) -/
theorem test_fetch_init :
    after (step (State.reset.withFetchWord 32 0x10000000)) (fun t => ((t.seq 0).bound, t.env)) = some (true, []) := by
  decide
theorem test_fetch_send :
    after (step (State.reset.withFetchWord 16 0x4000)) (fun t => (t.ctl 0).infl) = some (some .singleSend) := by decide
theorem test_fetch_reserved : refusalOf (step (State.reset.withFetchWord 16 0x4009)) = some .badPortWord := by decide

/-! ## Witnesses: for every statement with hypotheses, a state and operands that meet them all, clause by clause -/

theorem witness_DecodeEncodeRoundTrip : (Instr.xfer 0x7F 0xFFFFFFFF 0 0 0xFFFFFFFF).wellFormed = true := by decide

theorem witness_EncodeDecodeRoundTrip : read (decode (.port 0x20FF)) = some (.put 0xFF) := by decide

/-- each kind of reserved header, at the bit next to the valid ones, and the last header that is not reserved -/
theorem witness_ReservedHeadersRefused :
    ((0x40000000 : Word).extractLsb' 28 4 ≠ 1 ∧ (0x40000000 : Word).extractLsb' 28 4 ≠ 2 ∧
        (0x40000000 : Word).extractLsb' 28 4 ≠ 3) ∧
      ((0x20000080 : Word).extractLsb' 28 4 = 2 ∧ (0x20000080 : Word).extractLsb' 7 21 ≠ 0) ∧
      ((0x10000001 : Word).extractLsb' 28 4 = 1 ∧ (0x10000001 : Word).extractLsb' 0 28 ≠ 0) ∧
      ((0x38000000 : Word).extractLsb' 28 4 = 3 ∧ (0x38000000 : Word).extractLsb' 0 28 ≠ 0) ∧
      ((0x2000007F : Word).extractLsb' 28 4 = 2 ∧ (0x2000007F : Word).extractLsb' 7 21 = 0) ∧
      refusalOf (step { State.reset with env := [.submit 0 [0x20000080]] }) = some .badDescriptor := by decide

theorem witness_ReservedPortWordsRefused :
    (0x0FFF : PortWord).extractLsb' 12 4 = 0 ∧ 7 ≤ ((0x7000 : PortWord).extractLsb' 12 4).toNat ∧
      ((0x1100 : PortWord).extractLsb' 12 4 = 1 ∧ (0x1100 : PortWord).extractLsb' 8 4 ≠ 0) ∧
      ((0x5001 : PortWord).extractLsb' 12 4 = 5 ∧ (0x5001 : PortWord).extractLsb' 0 12 ≠ 0) ∧
      ((0x4010 : PortWord).extractLsb' 12 4 = 4 ∧ (0x4010 : PortWord).extractLsb' 4 8 ≠ 0) ∧
      9 ≤ ((0x4009 : PortWord).extractLsb' 0 4).toNat ∧
      refusalOf (step { State.reset with env := [.drive 7 0x4009] }) = some .badPortWord := by decide

theorem witness_DecodersFollowOpcodeTable :
    read (decodePort 0x10FF) = some (.ssa 0x7F .read) ∧
      (portRows.map (fun r => r.matchesWord 0x10FF)) = true :: List.replicate 13 false := by decide

/-- operands at the ends of their ranges; one past the end is not well formed -/
theorem witness_AssemblerEmitsDescriptors :
    (AsmReq.xfer 0x7F (2 ^ 32 - 1) 0 0 (2 ^ 32 - 1)).wellFormed = true ∧ (AsmReq.init (2 ^ 32 - 1)).wellFormed = true ∧
      (AsmReq.rdid (2 ^ 32 - 1) 0).wellFormed = true ∧ (AsmReq.eewr1 0x80 0).wellFormed = false := by decide

theorem witness_InitBindsHandle :
    (State.reset.seq State.reset.selInst).st = .idle ∧ ((one (at_ .check) readK).seq 0).st ≠ .idle := by decide

theorem witness_XferLatchesTransaction :
    ((one idleQ readK).seq 0).st = .idle ∧ ((one idleQ readK).seq 0).bound = true ∧
      ∀ m, m ≠ 0 → ((one idleQ readK).seq m).bound = true →
        ((one idleQ readK).seq m).ctlid = ((one idleQ readK).seq 0).ctlid → ((one idleQ readK).seq m).st = .idle :=
  ⟨rfl, rfl, fun m h _ _ => by rw [one_other _ _ m h]; rfl⟩

theorem witness_RdidLatchesOutputs :
    (one idleQ readK).selInst = 0 ∧ (one idleQ readK).Idle 0 ∧ (one idleQ readK).Bound 0 :=
  ⟨rfl, ⟨rfl, rfl, by decide⟩, rfl⟩

/-- a second instance, active on the handle of the first -/
def shared : State := { one idleQ busyK with seqs := [(0, idleQ), (1, at_ .w1Poll)] }

theorem witness_AcceptanceFaultsInOrder :
    ((one (at_ .check) readK).seq 0).st ≠ .idle ∧
      ((State.reset.seq 0).st = .idle ∧ (State.reset.seq 0).bound = false) ∧
      ((shared.seq 0).st = .idle ∧ (shared.seq 0).bound = true ∧ (shared.seq 1).bound = true ∧
        (shared.seq 1).ctlid = (shared.seq 0).ctlid ∧ (shared.seq 1).st ≠ .idle) := by decide

theorem witness_RequestFrame :
    isRequest (.init 5) = true ∧ isRequest (.xfer 0x50 0 1 0 0) = true ∧ isRequest (.rdid 0 0x10) = true ∧
      after (exec (.init 5) (one idleQ readK)) (fun _ => ()) = some () ∧
      after (exec (.xfer 0x50 0 1 0 0) (one idleQ readK)) (fun _ => ()) = some () ∧
      after (exec (.rdid 0 0x10) (one idleQ readK)) (fun _ => ()) = some () := by decide

/-- an idle and a busy controller, for the port operations -/
theorem witness_PortOperations :
    ((one idleQ readK).ctl ((one idleQ readK).handleOf (one idleQ readK).portBy)).busy = false ∧
      ((one idleQ readK).ctl 7).data = some 0x3C ∧ ((one idleQ readK).ctl 7).err = some .none ∧
      ((one idleQ busyK).ctl ((one idleQ busyK).handleOf (one idleQ busyK).portBy)).busy = true ∧
      (State.reset.ctl 0).data = none ∧ (State.reset.ctl 0).err = none := by decide

theorem witness_IssueCommandStartsCommand :
    commandOf .cmdBurstReceiveStop = some .burstReceiveStop ∧ Cmd.dir .burstReceiveStop = ((one idleQ readK).ctl 7).rw ∧
      commandOf .cmdSingleSend = some .singleSend ∧ Cmd.dir .singleSend ≠ ((one idleQ readK).ctl 7).rw := by decide

theorem witness_PortOperationFrame :
    ([.ssa 0x50 .write, .put 1, .get, .cmdBurstReceiveStart, .isBusy, .getError] : List Instr).map
        (fun i => (isRequest i, after (exec i (one idleQ readK)) (fun _ => ()))) =
      List.replicate 6 (false, some ()) := by decide

/-- a command in flight that receives, one that does not, and none -/
theorem witness_CompletionWritesDraws :
    ((one idleQ { readK with busy := true, infl := some .burstReceiveStop }).ctl 7).infl = some .burstReceiveStop ∧
      ((one idleQ { readK with busy := true, infl := some .burstReceiveStart }).ctl 7).infl = some .burstReceiveStart ∧
      ((one idleQ readK).ctl 7).infl = none := by decide

/-- a result, and none yet -/
theorem witness_HostReadsResult :
    ((one { idleQ with result := some false } readK).seq 0).result = some false ∧ (State.reset.seq 0).result = none ∧
      0 < State.reset.cfg.ninst := by decide

/-- the first and the last byte of a buffer of a request in progress, and the byte after it; a byte of a write buffer that lies in
no read buffer and no output -/
theorem witness_AgentsAccessMemory :
    Sequencer.outputBufferHas Params.normative 0x102 ((one (at_ .check) readK).seq 0) = false ∧
      Sequencer.outputBufferHas Params.normative 0x202 ((one (at_ .check) readK).seq 0) = true ∧
      Sequencer.writeBufferHas 0x100 ((one (at_ .check) readK).seq 0) = true ∧
      Sequencer.writeBufferHas 0x102 ((one (at_ .check) readK).seq 0) = true ∧
      Sequencer.writeBufferHas 0x103 ((one (at_ .check) readK).seq 0) = false ∧
      Sequencer.outputBufferHas Params.normative 0x30F ((one (ident .idFill) readK).seq 0) = true ∧
      Sequencer.outputBufferHas Params.normative 0x310 ((one (ident .idFill) readK).seq 0) = false ∧
      Sequencer.outputBufferHas Params.normative 0x405 ((one (ident .idFill) readK).seq 0) = true := by decide

theorem witness_StepRunsDecodedInstruction :
    read (decode (.request [0x10000000, 5])) = some (.init 5) ∧ read (decode (.port 0x3000)) = some .get ∧
      Instr.wellFormed .get = true ∧ 2 ^ 32 - 1 < State.reset.cfg.ninst ∧ State.reset.cfg.ninst ≤ 2 ^ 32 := by decide

theorem witness_FetchWordRunsNext :
    decodeTableWord 160 0x300000002000000010000000020000007F = none ∧
      decodeTableWord 96 0x000000070000000630000000 = some (.rdid 6 7) ∧ decodeTableWord 16 0x6000 = some .getError ∧
      State.reset.selInst < State.reset.cfg.ninst := by decide

/-- a state for each list, performed by the instance itself -/
theorem witness_SequencerPerformsPortInstructions :
    ({ one (at_ .wfSa) readK with portBy := .inst 0 } : State).portBy = .inst 0 ∧
      ((one (at_ .wfSa) readK).seq 0).st = .wfSa ∧
      (writeByte 0 2 { one (at_ .wfPut) readK with portBy := .inst 0 }).isSome = true ∧
      ((one (at_ .rpCmd) readK).seq 0).st = .rpCmd := by decide

/-- a reset in a busy-wait, the histories not empty: the instance, the histories, and the controller as its last draw has it -/
theorem witness_ResetTurnReturnsToReset :
    let drawn : List CtlDraw :=
      [⟨7, 0x11, .write, none, none, none⟩, ⟨7, 0x50, .read, some 9, none, some .burstSendStart⟩,
        ⟨8, 0, .write, none, none, some .singleSend⟩]
    let s := { one (at_ .wmPoll) busyK with h := [.port (.inst 0) (.getData 9)], hh := [.done 0 true], env := [.reset drawn] }
    after (step s) (fun t => ((t.seq 0).st, (t.seq 0).bound, (t.seq 0).result)) = some (.idle, false, none) ∧
      after (step s) (fun t => (t.h, t.mh, t.hh)) = some ([], [], []) ∧
      after (step s) (fun t => t.ctl 7) =
        some { addr := 0x50, rw := .read, data := some 9, err := none, busy := true, infl := some .burstSendStart } ∧
      after (step s) (fun t => (t.ctl 8).infl) = some (some .singleSend) ∧
      after (step { s with env := [.reset []] }) (fun t => t.ctl 7) = some busyK := by decide

theorem reset_seq (n : Nat) : State.reset.seq n = Sequencer.reset := rfl

theorem reset_ctl (h : Handle) : State.reset.ctl h = Controller.reset := rfl

theorem reset_consistent : Sequencer.reset.Consistent :=
  ⟨by decide, by decide, by decide, by decide, by decide, trivial⟩

theorem witness_ResetMeetsInvariants : State.reset.Inv ∧ State.reset.PortInv :=
  ⟨⟨rfl, fun _ => reset_consistent, fun _ => rfl, fun m n h _ ⟨a, _⟩ => (by
        rw [reset_seq, Sequencer.reset_not_active] at a
        cases a), fun _ _ => rfl⟩,
    ⟨fun h e => (by rw [reset_ctl] at e; cases e), fun n r e => (by rw [reset_seq] at e; cases e),
      fun n c e => (by rw [reset_seq] at e; cases e), fun n e => (by rw [reset_seq] at e; cases e),
      fun n e => (by rw [reset_seq] at e; cases e)⟩⟩

theorem one_inv (q : Sequencer) (k : Controller) (ht : (one q k).tablesWf = true) (hq : q.Consistent) (hk : k.legal) :
    (one q k).Inv := by
  refine ⟨ht, fun n => ?_, fun h => ?_, fun m n h ne => ?_, fun n hn => one_other q k n ?_⟩
  · by_cases e : n = 0
    · subst e; exact hq
    · rw [one_other q k n e]; exact reset_consistent
  · rw [one_ctl]
    split
    · exact hk
    · rfl
  · rintro ⟨a, b⟩
    by_cases hm : m = 0
    · rw [one_other q k n (fun hn => ne (hm.trans hn.symm)), Sequencer.reset_not_active] at b
      cases b
    · rw [one_other q k m hm, Sequencer.reset_not_active] at a
      cases a
  · rintro rfl
    exact absurd hn (by show ¬2 ^ 32 ≤ 0; decide)

/-- One instance in the busy-wait of a middle byte, its controller busy with that byte's command, and its own turn next. -/
def waiting : State :=
  { one (at_ .wmPoll) { busyK with infl := some .burstSendContinue } with env := [.seq 0] }

theorem waiting_seq (n : Nat) : waiting.seq n = if n = 0 then at_ .wmPoll else Sequencer.reset := by
  by_cases h : n = 0
  · subst h; rfl
  · rw [if_neg h]
    exact one_other (at_ .wmPoll) { busyK with infl := some .burstSendContinue } n h

theorem waiting_ctl (h : Handle) : waiting.ctl h =
    if h.toNat = 7 then { busyK with infl := some .burstSendContinue } else Controller.reset :=
  one_ctl (at_ .wmPoll) { busyK with infl := some .burstSendContinue } h

theorem at_wm_consistent : (at_ .wmPoll).Consistent :=
  ⟨by decide, by decide, by decide, by decide, by decide,
    (by decide : 1 ≤ (at_ .wmPoll).i.toNat ∧ (at_ .wmPoll).i.toNat + 2 ≤ (at_ .wmPoll).wn.toNat)⟩

theorem waiting_inv : waiting.Inv :=
  have h := one_inv (at_ .wmPoll) { busyK with infl := some .burstSendContinue } (by decide) at_wm_consistent rfl
  ⟨h.tables, h.consistent, h.legal, h.exclusive, h.absent⟩

theorem waiting_portInv : waiting.PortInv := by
  refine ⟨fun h e => ⟨0, ?_⟩, fun n r e => ?_, fun n c e => ?_, fun n e => ?_, fun n e => ?_⟩
  · rw [waiting_ctl] at e
    split at e
    case isTrue g =>
      have : h = 7 := BitVec.eq_of_toNat_eq g
      subst this
      decide
    case isFalse => cases e
  all_goals rw [waiting_seq] at e
  · split at e <;> cases e
  · split at e
    case isTrue g =>
      subst g
      cases e
      exact .inl rfl
    case isFalse => cases e
  · split at e <;> cases e
  · split at e <;> cases e

theorem waiting_admitted (a : Access) (base len : Nat) (h : base + len ≤ 2 ^ 32) : waiting.Admitted a base len :=
  one_admitted (at_ .wmPoll) { busyK with infl := some .burstSendContinue } a base len h

/-- the hypotheses of the two invariant statements and of `SequencerNeverFaults`, on a machine at work -/
theorem witness_StepKeepsInvariant :
    waiting.Inv ∧ after (step waiting) (fun t => t.h) = some [.port (.inst 0) (.isBusy true)] :=
  ⟨waiting_inv, by decide⟩

theorem witness_StepKeepsPortDiscipline :
    waiting.Inv ∧ waiting.PortInv ∧ waiting.cfg.busyTimeout = none ∧ waiting.nextTurn.leavesPort = true ∧
      (after (step waiting) (fun t => t.h)).isSome = true :=
  ⟨waiting_inv, waiting_portInv, by decide, by decide, by decide⟩

theorem witness_SequencerNeverFaults : waiting.Inv ∧ waiting.PortInv := ⟨waiting_inv, waiting_portInv⟩

/-- steps that change what the "only" statements watch: the latch, the binding, the result -/
theorem witness_LatchWrittenOnlyAtStart :
    after (step { one idleQ readK with env := [.submit 0 [0x20000051, 1, 2, 3, 4]] })
        (fun t => decide ((t.seq 0).sa ≠ idleQ.sa)) = some true ∧
      after (step { one (ident .idSn) readK with env := [.seq 0] }) (fun t => decide ((t.seq 0).rn ≠ (ident .idSn).rn)) =
        some true := by decide

theorem witness_BindingWrittenOnlyByInit :
    after (step { one idleQ readK with env := [.submit 0 [0x10000000, 9]] }) (fun t => (t.seq 0).ctlid) = some 9 := by
  decide

theorem witness_ResultWrittenOnlyAtCompletion :
    after (step { one (at_ .doneOk) readK with env := [.seq 0] }) (fun t => (t.seq 0).result) = some (some true) ∧
      after (step { one (ident .idEnd) readK with env := [.seq 0] }) (fun t => (t.seq 0).result) = some (some false) := by
  decide

/-- steps to `IDLE` and not to `IDLE` -/
theorem witness_ReturnToIdleLogsDone :
    after (seqStep 0 (one (at_ .doneFail) readK)) (fun t => (t.seq 0).st) = some .idle ∧
      after (seqStep 0 (one (at_ .check) readK)) (fun t => (t.seq 0).st) = some .wsSa := by decide

theorem witness_SequencerStepIsLocal : after (seqStep 0 (one (at_ .w1Sa) readK)) (fun t => (t.ctl 7).rw) = some .write := by
  decide

theorem witness_MemoryWrittenOnlyAtTarget :
    after (step { one (at_ .r1Get) readK with env := [.seq 0] }) (fun t => t.byteAt 0x200) = some 0x3C ∧
      after (step { one idleQ readK with env := [.agentWrite 0x20 9] }) (fun t => t.byteAt 0x20) = some 9 := by decide

/-- a step that leaves the buffers of instance 0 alone: another agent writes the byte after its write buffer -/
theorem witness_MemoryWrittenOnlyAtTarget_owned :
    (after (step { one (at_ .check) readK with env := [.agentWrite 0x103 9] }) (fun t => t.byteAt 0x103) = some 9 ∧
        (one (at_ .check) readK).seq 0 = at_ .check ∧ Sequencer.writeBufferHas 0x102 (at_ .check) = true) ∧
      ¬(one (at_ .check) readK).Touches 0 (.agentWrite 0x103 9) ∧ (one (at_ .check) readK).Touches 0 (.agentWrite 0x102 9) ∧
      ¬(one (at_ .check) readK).Touches 0 (.agentRead 0x102) ∧ (one (at_ .check) readK).Touches 0 (.agentRead 0x202) := by
  refine ⟨by decide, ?_, ?_, ?_, ?_⟩ <;> simp only [State.Touches] <;> decide

/-- a step that answers a next state and logs an event, and a reset: the hypotheses of `ParametersNeverChange` too -/
theorem witness_HistoriesAreOnlyObserved :
    after (step { one (at_ .w1Poll) busyK with env := [.seq 0] }) (fun t => t.h) = some [.port (.inst 0) (.isBusy true)] ∧
      (∀ ds, State.nextTurn { one (at_ .w1Poll) busyK with env := [.seq 0] } ≠ .reset ds) ∧
      State.nextTurn { one (at_ .w1Poll) busyK with env := [.reset []] } = .reset [] ∧
      after (step { one (at_ .w1Poll) busyK with env := [.reset []], hh := [.done 0 true] }) (fun t => t.hh) = some [] :=
  ⟨by decide, fun _ => nofun, by decide, by decide⟩

/-- a busy and an idle controller in an address, a command, a busy-wait and an error-check state; both directions -/
theorem witness_PortStates :
    (((one (at_ .rfSa) readK).seq 0).st = .rfSa ∧ ((one (at_ .rfSa) readK).ctl ((one (at_ .rfSa) readK).seq 0).ctlid).busy = false) ∧
      ((one (at_ .w1Sa) busyK).ctl ((one (at_ .w1Sa) busyK).seq 0).ctlid).busy = true ∧
      Cmd.dir .burstReceiveStop = ((one (at_ .rpCmd) readK).ctl 7).rw ∧
      Cmd.dir .singleSend ≠ ((one (at_ .w1Cmd) readK).ctl 7).rw ∧
      ((one (at_ .wsPoll) busyK).ctl 7).busy = true ∧
      ((one (at_ .rpErr) readK).ctl 7).err = some .none := by decide

/-- the busy-wait's limits: the k-th poll, the one before it, and the largest count -/
theorem witness_BusyWaitStates :
    (3 ≤ (BitVec.toNat (2 : Word)) + 1 ∧ (BitVec.toNat (1 : Word)) + 1 < 3) ∧
      ¬(BitVec.toNat (0xFFFFFFFF : Word) + 1 < 2 ^ 32) ∧ BitVec.toNat (0xFFFFFFFE : Word) + 1 < 2 ^ 32 := by decide

/-- the registers fit together in an error check of a middle byte -/
theorem witness_ErrorCheckStates : ((one (at_ .wmErr) readK).seq 0).st = .wmErr ∧ ((one (at_ .wmErr) readK).seq 0).Consistent :=
  ⟨rfl, by decide, by decide, by decide, by decide, by decide,
    (by decide : 1 ≤ (at_ .wmErr).i.toNat ∧ (at_ .wmErr).i.toNat + 2 ≤ (at_ .wmErr).wn.toNat)⟩

/-- A second instance at work, on another controller and other buffers. -/
def two (q : Sequencer) : State :=
  { one q readK with seqs := [(0, q), (1, { at_ .rmGet with ctlid := 8, wp := 0x700, rp := 0x800 })] }

theorem two_noReadRace (q : Sequencer) (base len : Nat) (h : base + len ≤ 0x700) : (two q).NoReadRace 0 base len := by
  intro i hi
  simp [State.readRaces, State.racedFor, two, one, State.reset, isOther, State.seq, Sparse.get, Sequencer.outputBufferHas, at_, inBuffer]
  omega

theorem two_noWriteRace (q : Sequencer) (base len : Nat) (h : base + len ≤ 0x700) : (two q).NoWriteRace 0 base len := by
  intro i hi
  simp [State.writeRaces, State.racedFor, two, one, State.reset, isOther, State.seq, Sparse.get, Sequencer.writeBufferHas,
    Sequencer.outputBufferHas, at_, inBuffer]
  omega

/-- R77: after another agent wrote byte 1 of the write buffer, the sequencer's read of that byte is part of a race, that of byte 2 is
none, and a new request has no raced byte -/
theorem test_raced_byte :
    after (runTurn (.agentWrite 0x101 9) (one (at_ .check) readK)) (fun t =>
        (t.readRaces (some 0) 0x101, t.readRaces (some 0) 0x102, t.readRaces none 0x101, t.raced)) =
      some (true, false, false, [(0, 0x101)]) ∧
    after (submitRequest 0 [0x30000000, 0x300, 0x400] { one { idleQ with bound := true } readK with raced := [(0, 0x101), (1, 5)] })
      (fun t => t.raced) = some [(1, 5)] := by decide

/-- a read next to the other's buffers is no race, one of its output would be -/
theorem witness_LoadStates :
    (at_ .wfPut).wsrc = .mem ∧ (ident .w1Put).wsrc = .const ∧
      (two (at_ .wfPut)).admits .read ((at_ .wfPut).wp.toNat + 2) = true ∧
      (two (at_ .wfPut)).readRaces (some 0) ((at_ .wfPut).wp.toNat + 2) = false ∧
      (two (at_ .wfPut)).readRaces (some 0) 0x802 = true ∧ (two (at_ .wfPut)).readRaces (some 0) 0x803 = false ∧
      ((one (at_ .wfPut) busyK).ctl (at_ .wfPut).ctlid).busy = true := by decide

theorem witness_PullStates :
    (two (at_ .rfGet)).admits .write ((at_ .rfGet).rp.toNat + 2) = true ∧
      (two (at_ .rfGet)).writeRaces (some 0) ((at_ .rfGet).rp.toNat + 2) = false ∧
      (two (at_ .rfGet)).writeRaces (some 0) 0x700 = true ∧ (two (at_ .rfGet)).writeRaces (some 1) 0x700 = false ∧
      ((two (at_ .rfGet)).ctl 7).data = some 0x3C := by decide

/-- the counts at which the branches of `CHECK` and `RPHASE` meet -/
theorem witness_CheckChoosesPhase :
    [(0, 0), (0, 1), (1, 0), (2, 0), (2, 1)].map (fun c =>
        after (seqStep 0 (one { at_ .check with wn := BitVec.ofNat 32 c.1, rn := BitVec.ofNat 32 c.2 } readK))
          (fun t => (t.seq 0).st)) =
      [some .doneFail, some .rphase, some .w1Sa, some .wsSa, some .wsSa] ∧
    [0, 1, 2].map (fun c => after (seqStep 0 (one { at_ .rphase with rn := BitVec.ofNat 32 c } readK)) (fun t => (t.seq 0).st)) =
      [some .doneOk, some .r1Sa, some .rsSa] := by decide

theorem witness_TransferCompletes : ((one (at_ .doneOk) readK).seq 0).mode = .xfer ∧ (at_ .doneFail).st = .doneFail := by decide

/-- both stages, both settings of the refill -/
theorem witness_IdentityContinues :
    ((one (ident .doneFail) readK).seq 0).mode = .ident ∧ (one (ident .doneFail) readK).cfg.refillOnFailure = true ∧
      ({ one (ident .doneFail) readK with cfg := { Params.normative with refillOnFailure := false } } : State).cfg.refillOnFailure =
        false := by decide

/-- the first and the last sentinel, and the first MAC byte; an address that is refused -/
theorem witness_SentinelStates :
    (two (ident .idFill)).writeRaces (some 0) 0x400 = false ∧ (two (ident .idFill)).admits .write 0x400 = true ∧
      [0, 15, 16, 21].map (fun j => after (seqStep 0 (one { ident .idFill with j := BitVec.ofNat 5 j } readK)) (fun t => (t.seq 0).st)) =
        [some .idFill, some .idFill, some .idFill, some .idSn] ∧
      (one (ident .idFill) readK).admits .write (2 ^ 32) = false := by decide

theorem witness_IdentityTransactions :
    ((one (ident .idSn) readK).seq 0).st = .idSn ∧ ((one (ident .idMac) readK).seq 0).st = .idMac ∧
      ((one (ident .idEnd) readK).seq 0).st = .idEnd := by decide

/-- a store and a load at the first address above memory -/
theorem witness_RefusedAccessIsStuck :
    (one { at_ .rsGet with rp := 0xFFFFFFFF, rn := 2 } readK).storeTarget 0 = some 0xFFFFFFFF ∧
      (one { at_ .rfGet with rp := 0xFFFFFFFF, rn := 2 } readK).storeTarget 0 = some (2 ^ 32) ∧
      (one { at_ .wfPut with wp := 0xFFFFFFFF, wn := 2 } readK).loadTarget 0 = some (2 ^ 32) ∧
      (one (at_ .rfGet) readK).admits .write (2 ^ 32) = false ∧ (one (at_ .rfGet) readK).admits .read (2 ^ 32) = false ∧
      (one (at_ .rfGet) readK).admits .write (2 ^ 32 - 1) = true := by decide

theorem witness_BusyWaitHangs :
    ((one (at_ .rpPoll) busyK).seq 0).st.isPoll = true ∧ ((one (at_ .rpPoll) busyK).ctl 7).busy = true ∧
      (one (at_ .rpPoll) busyK).cfg.busyTimeout = none := by decide

/-- the turn of another agent, of another instance, and of another controller -/
theorem witness_BusyWaitHangs_others :
    ([.agentWrite 0x900 1, .seq 1, .complete 8 .none 0, .submit 1 [0x10000000, 5]] : List Turn).map
        (fun x => after (step { one (at_ .rpPoll) busyK with env := [x] }) (fun t => ((t.seq 0).st, (t.ctl 7).busy))) =
      List.replicate 4 (some (.rpPoll, true)) := by decide

/-- `k = 1`, the first busy poll, and `k = 2` -/
theorem witness_TimeoutAbortsAtKthPoll :
    [1, 2].map (fun k =>
        after (seqStep 0 { one (at_ .rpPoll) busyK with cfg := { Params.normative with busyTimeout := some k } })
          (fun t => ((t.seq 0).st, (t.seq 0).tc))) = [some (.doneFail, 0), some (.rpPoll, 1)] ∧
      ((one (at_ .rpPoll) busyK).seq 0).tc = 0 := by decide

/-- A machine at work with its buffers admitted; a round that serves it, and a run of two such rounds that does not fault. -/
theorem witness_RequestCompletesUnderProgress :
    waiting.Inv ∧ (waiting.seq 0).st ≠ .idle ∧ waiting.RequestAdmitted 0 ∧
      servesRound 0 (waiting.seq 0).ctlid [.complete 7 .none 0, .seq 0] ∧
      undriven [.complete 7 .none 0, .seq 0, .complete 7 .none 0, .seq 0] ∧
      after (Host.Core.run Sys2Proof.core 4
          { waiting with env := [.complete 7 .none 0, .seq 0, .complete 7 .none 0, .seq 0] ++ waiting.env })
        (fun t => (t.seq 0).st) = some .wfSa :=
  ⟨waiting_inv, by decide,
    ⟨fun _ => waiting_admitted _ 0x100 3 (by decide), fun _ => waiting_admitted _ 0x200 3 (by decide), fun h => by cases h⟩,
    ⟨[], [], [], .none, 0, rfl⟩, by intro h w; simp, by decide⟩

/-- The turns of a fair run: the controller completes, then the sequencer has every turn. -/
def fairTurn (i : Nat) : Turn := if i = 0 then .complete 7 .none 0 else .seq 0

/-- Its states, from the busy-wait for the stop of a burst read. -/
def fairState : Nat → State
  | 0 => one (at_ .rpPoll) { readK with busy := true, infl := some .burstReceiveStop }
  | i + 1 => (after (step { fairState i with env := [fairTurn i] }) id).getD State.reset

theorem fair_end (k : Nat) : fairState (k + 4) = fairState 4 := by
  induction k with
  | zero => rfl
  | succ k ih =>
    show (after (step { fairState (k + 4) with env := [fairTurn (k + 4)] }) id).getD State.reset = _
    rw [ih]
    rfl

theorem fair_isRun : IsRun fairTurn fairState := by
  intro i
  match i with
  | 0 => rfl
  | 1 => rfl
  | 2 => rfl
  | 3 => rfl
  | k + 4 =>
    rw [show k + 4 + 1 = (k + 1) + 4 by omega, fair_end (k + 1), fair_end k]
    rfl

/-- All the hypotheses on a run together, on one that goes on for ever. -/
theorem witness_RequestCompletesUnderProgress_run :
    IsRun fairTurn fairState ∧ (fairState 0).Inv ∧ (fairState 0).RequestAdmitted 0 ∧ (∀ i h w, fairTurn i ≠ .drive h w) ∧
      WeaklyFair 0 fairTurn fairState ∧ CtlCompletes ((fairState 0).seq 0).ctlid fairState ∧
      ((fairState 0).seq 0).st = .rpPoll ∧ ((fairState 4).seq 0).st = .idle := by
  refine ⟨fair_isRun, one_inv _ _ (by decide)
      ⟨by decide, by decide, by decide, by decide, by decide, (by decide : 2 ≤ (at_ .rpPoll).rn.toNat)⟩ rfl,
    ⟨fun _ => one_admitted (at_ .rpPoll) _ .read 0x100 3 (by decide),
      fun _ => one_admitted (at_ .rpPoll) _ .write 0x200 3 (by decide), fun h => by cases h⟩,
    fun i h w => ?_, fun i _ => ⟨i + 1, Nat.le_succ i, rfl⟩, fun i _ => ⟨i + 4, Nat.le_add_right i 4, ?_⟩, rfl, rfl⟩
  · unfold fairTurn
    split <;> simp
  · rw [fair_end i]
    rfl

/-- that run has ended, and none of its turns touches the buffers from outside -/
theorem witness_EndedAt : EndedAt fairTurn fairState 4 ∧ BuffersOwned 0 fairTurn fairState := by
  refine ⟨⟨⟨fun n => ?_, fun h => ?_⟩, fun j hj => ?_⟩, fun i _ => ?_⟩
  · by_cases e : n = 0
    · subst e; rfl
    · obtain ⟨q, hq⟩ : ∃ q, (fairState 4).seqs = [(0, q)] := ⟨_, rfl⟩
      simp [State.seq, hq, Sparse.get, Ne.symm e, Sequencer.reset]
  · by_cases e : h.toNat = 7
    · have : h = 7 := BitVec.eq_of_toNat_eq e
      subst this
      rfl
    · obtain ⟨k, hk⟩ : ∃ k, (fairState 4).ctls = [(7, k)] := ⟨_, rfl⟩
      simp [State.ctl, hk, Sparse.get, Ne.symm e, Controller.reset]
  · unfold fairTurn
    rw [if_neg (by omega)]
    rfl
  · unfold fairTurn
    split <;> simp [State.Touches]

theorem witness_MalformedTransferFails :
    0 < (one idleQ readK).cfg.ninst ∧ ((one idleQ readK).seq 0).st = .idle ∧ ((one idleQ readK).seq 0).bound = true ∧ (one idleQ readK).sharedActive 0 = false := by
  decide

theorem witness_EagerTransferFollowsReference :
    (two (at_ .check)).CtlQuiet 7 ∧ (two (at_ .check)).cfg.busyTimeout = none ∧
      (two (at_ .check)).NoReadRace 0 0x100 3 ∧ (two (at_ .check)).NoWriteRace 0 0x200 3 ∧
      (two (at_ .check)).Admitted .read 0x100 3 ∧ (two (at_ .check)).Admitted .write 0x200 3 :=
  ⟨⟨rfl, rfl⟩, rfl, two_noReadRace _ 0x100 3 (by decide), two_noWriteRace _ 0x200 3 (by decide),
    one_admitted (at_ .check) readK .read 0x100 3 (by decide), one_admitted (at_ .check) readK .write 0x200 3 (by decide)⟩

/-- the three ends of a reference transfer -/
theorem witness_EagerTransferFollowsReference_ends :
    (refTransfer 0x50 [1] 0x200 0 [(.none, 0)]).ending = .success ∧
      (refTransfer 0x50 [1] 0x200 0 [(.error, 0)]).ending = .abort .busError ∧
      (refTransfer 0x50 [1] 0x200 0 []).ending = .hang := by decide

theorem witness_EagerIdentityFollowsReference :
    (two (ident .idFill)).CtlQuiet 7 ∧ ((two (ident .idFill)).seq 0).j = 0 ∧
      (two (ident .idFill)).NoWriteRace 0 0x300 16 ∧ (two (ident .idFill)).NoWriteRace 0 0x400 6 ∧
      (two (ident .idFill)).Admitted .write 0x300 16 ∧ (two (ident .idFill)).Admitted .write 0x400 6 ∧
      (refIdentity Params.normative 0x300 0x400 []).result = none ∧
      (refIdentity Params.normative 0x300 0x400 [(.error, 0), (.error, 0)]).result = some false :=
  ⟨⟨rfl, rfl⟩, rfl, two_noWriteRace _ 0x300 16 (by decide), two_noWriteRace _ 0x400 6 (by decide),
    one_admitted (ident .idFill) readK .write 0x300 16 (by decide), one_admitted (ident .idFill) readK .write 0x400 6 (by decide),
    by decide, by decide⟩

/-- one byte, two, and three -/
theorem witness_WritePhaseCounts :
    [[1], [1, 2], [1, 2, 3]].map (fun bs => traceCommands (refWrite 0x50 bs (List.replicate 3 (.none, 0))).trace) =
      [[.singleSend], [.burstSendStart, .burstSendFinish], [.burstSendStart, .burstSendContinue, .burstSendFinish]] := by
  decide

theorem witness_ReadPhaseCounts :
    [1, 2, 3].map (fun n => traceCommands (refRead 0x50 0x200 n (List.replicate 4 (.none, 0))).trace) =
      [[.singleReceiveNack], [.burstReceiveStart, .burstReceiveFinish, .burstReceiveStop],
        [.burstReceiveStart, .burstReceiveContinue, .burstReceiveFinish, .burstReceiveStop]] := by decide

/-- phases that do not abort although an unchecked step drew an error, and the one draw of a one-byte read -/
theorem witness_PhaseCounts_unchecked :
    (∀ d ∈ ((([(.error, 0), (.none, 0), (.none, 0)] : List (BusErr × Byte)).take 3).drop 1), d.1 = .none) ∧
      (refWrite 0x50 [1, 2, 3] [(.error, 0), (.none, 0), (.none, 0)]).ending = .success ∧
      (∀ d ∈ ((([(.error, 1), (.error, 2), (.none, 0)] : List (BusErr × Byte)).take 3).drop 2), d.1 = .none) ∧
      (refRead 0x50 0x200 2 [(.error, 1), (.error, 2), (.none, 0)]).ending = .success ∧
      (refRead 0x50 0x200 1 [(.none, 1)]).ending = .success := by decide

/-- outputs that touch but do not overlap, both transfers ended: the first failed, the second too -/
theorem witness_IdentityOutcomeTable :
    Params.normative.snLen = 16 ∧ Params.normative.macLen = 6 ∧ Params.normative.refillOnFailure = true ∧
      (0x300 : Nat) + 16 ≤ 0x310 ∧
      (refTransfer 0x58 [0x80] 0x300 16 [(.error, 0), (.error, 0)]).ending = .abort .busError ∧
      (refTransfer 0x58 [0x9A] 0x310 6 [(.error, 0)]).ending = .abort .busError := by decide

/-- and both succeeded -/
theorem witness_IdentityOutcomeTable_success :
    (refTransfer 0x58 [0x80] 0x300 16 (List.replicate 18 (.none, 0x5A))).ending = .success ∧
      (refTransfer 0x58 [0x9A] 0x310 6 (List.replicate 8 (.none, 0x5A))).ending = .success := by decide

end Sys2Proof.Tests
end

/-! ## What a step leaves in one sequencer -/

namespace Sys2Proof

/-- The registers that an accepted instruction leaves in the selected sequencer, where `q` stood (rules R142, R192, R203);
a port operation leaves them as they were. -/
def Instr.registers (q : Machine.Sequencer) : Instr → Machine.Sequencer
  | .init cid => { q with ctlid := cid, bound := true, result := some true }
  | .xfer sa wp wn rp rn => Machine.latchTransfer sa wp wn rp rn q
  | .rdid snp macp => Machine.latchIdentity snp macp q
  | _ => q

end Sys2Proof

namespace Sys2Proof.Machine

/-! ### Instructions: a request writes the selected sequencer, a port operation none -/

section
variable {s t : State} {w : Who}

theorem State.seq_congr (h : t.seqs = s.seqs) (n : Nat) : t.seq n = s.seq n := by
  rw [State.seq, State.seq, h]

theorem portSetSlaveAddress_keeps_seqs {a : SlaveAddr} {r : Dir} (h : portSetSlaveAddress w a r s = .next t) :
    t.seqs = s.seqs := by
  rcases portSetSlaveAddress_cases w a r s with ⟨_, e⟩ | ⟨_, e⟩ <;> rw [e] at h <;> cases h
  rfl

theorem portPutData_keeps_seqs {b : Byte} (h : portPutData w b s = .next t) : t.seqs = s.seqs := by
  rcases portPutData_cases w b s with ⟨_, e⟩ | ⟨_, e⟩ <;> rw [e] at h <;> cases h
  rfl

theorem portIssueCommand_keeps_seqs {c : Cmd} (h : portIssueCommand w c s = .next t) : t.seqs = s.seqs := by
  rcases portIssueCommand_cases w c s with ⟨_, e⟩ | ⟨_, _, e⟩ | ⟨_, _, e⟩ <;> rw [e] at h <;> cases h
  rfl

theorem execInit_seq {cid : Handle} (h : execInit cid s = .next t) (m : Nat) :
    t.seq m = if m = s.selInst then (Instr.init cid).registers (s.seq m) else s.seq m := by
  unfold execInit at h
  split_ifs at h
  cases h
  by_cases hm : m = s.selInst <;> simp [hm, Instr.registers]

theorem accept_seq {n : Nat} {latch : Sequencer → Sequencer} (h : accept n latch s = .next t) (m : Nat) :
    t.seq m = if m = n then latch (s.seq m) else s.seq m := by
  rcases accept_cases n latch s with ⟨_, e⟩ | ⟨_, _, e⟩ | ⟨_, _, _, e⟩ | ⟨_, _, _, e⟩ <;> rw [e] at h <;> cases h
  by_cases hm : m = n <;> simp [hm]

/-- What any instruction leaves in any sequencer. -/
theorem exec_seq {i : Instr} (h : exec i s = .next t) (m : Nat) :
    t.seq m = if m = s.selInst then i.registers (s.seq m) else s.seq m := by
  have port (hs : t.seqs = s.seqs) : t.seq m = if m = s.selInst then s.seq m else s.seq m := by
    rw [ite_self, State.seq_congr hs]
  cases i with
  | init cid => exact execInit_seq h m
  | xfer sa wp wn rp rn => exact accept_seq h m
  | rdid snp macp => exact accept_seq h m
  | ssa a r => exact port (portSetSlaveAddress_keeps_seqs h)
  | put b => exact port (portPutData_keeps_seqs h)
  | get => cases h; exact port (portGetData_same s.portBy s).1
  | isBusy => cases h; exact port rfl
  | getError => cases h; exact port (portGetError_same s.portBy s).1
  | cmdSingleSend | cmdBurstSendStart | cmdBurstSendContinue | cmdBurstSendFinish | cmdBurstReceiveStart
  | cmdBurstReceiveContinue | cmdBurstReceiveFinish | cmdBurstReceiveStop | cmdSingleReceiveNack =>
    exact port (portIssueCommand_keeps_seqs h)

end

/-- A command code is no request. -/
theorem decodeCommand_registers {code : BitVec 4} {i : Instr} (h : decodeCommand code = .ok i) (q : Sequencer) :
    i.registers q = q := by
  unfold decodeCommand at h
  split at h <;> cases h <;> rfl

/-- A port word is no request. -/
theorem decodePort_registers {w : PortWord} {i : Instr} (h : decodePort w = .ok i) (q : Sequencer) :
    i.registers q = q := by
  unfold decodePort at h
  split at h
  case h_4 => split_ifs at h; exact decodeCommand_registers h q
  case h_7 => cases h
  all_goals split_ifs at h; cases h; rfl

/-! ### Turns -/

/-- A submission to sequencer `k` writes its registers as the decoded request says, or nothing. -/
theorem submitRequest_seq {k : Nat} {ws : List Word} {s t : State} (h : submitRequest k ws s = .next t) (n : Nat) :
    t.seq n = s.seq n ∨ k = n ∧ ∃ i, decode (.request ws) = .ok i ∧ t.seq n = i.registers (s.seq n) := by
  unfold submitRequest at h
  split at h
  next i hd =>
    split_ifs at h
    · have e := exec_seq h n
      by_cases hn : n = k
      · exact .inr ⟨hn.symm, i, hd, by rw [e, if_pos hn]; rfl⟩
      · exact .inl (by rw [e, if_neg hn]; rfl)
    · cases h
      exact .inl rfl
  all_goals cases h

theorem drivePort_seq {g : Handle} {w : PortWord} {s t : State} (h : drivePort g w s = .next t) (n : Nat) :
    t.seq n = s.seq n := by
  unfold drivePort at h
  split at h
  next i hd => rw [exec_seq h n, decodePort_registers hd, ite_self]; rfl
  next => cases h

theorem hostRead_seq {k : Nat} {s t : State} (h : hostRead k s = .next t) (n : Nat) : t.seq n = s.seq n := by
  unfold hostRead readResult at h
  split at h
  · split at h <;> cases h
    rfl
  · cases h
    rfl

theorem completeCommand_seq (g : Handle) (e : BusErr) (d : Byte) (s : State) (n : Nat) :
    (completeCommand g e d s).seq n = s.seq n := by
  rcases completeCommand_cases g e d s with ⟨_, h⟩ | ⟨_, _, h⟩ <;> rw [h]
  rfl

theorem agentRead_seq (a : Word) (s : State) (n : Nat) : (agentRead a s).seq n = s.seq n := by
  unfold agentRead
  rcases s.load_cases none a.toNat with ⟨_, h⟩ | ⟨_, h⟩ <;> rw [h] <;> rfl

/-- A sequencer's turn writes its own registers, by one move of its shape, or nothing. -/
theorem seqStep_seq {k : Nat} {s t : State} (h : seqStep k s = .next t) (n : Nat) :
    t.seq n = s.seq n ∨
      k = n ∧ ∃ c, ((s.seq n).shape s.cfg).Moves s.cfg (s.seq n) (s.ctl (s.seq n).ctlid) (t.seq n) c := by
  rcases seqStep_effect h with ⟨rfl, _⟩ | ⟨q', c, eff⟩
  · exact .inl rfl
  · have e : t.seq n = if n = k then q' else s.seq n := by rw [State.seq, eff.seqs, Sparse.get_put]; rfl
    by_cases hn : n = k
    · subst hn
      rw [if_pos rfl] at e
      exact .inr ⟨rfl, c, e ▸ eff.moves⟩
    · exact .inl (by rw [e, if_neg hn])

/-- THE WRITERS OF A SEQUENCER: a turn leaves its registers as they were, or it submitted a request to it, or moved that
sequencer, or was a reset. -/
theorem runTurn_seq {τ : Turn} {s t : State} (h : runTurn τ s = .next t) (n : Nat) :
    t.seq n = s.seq n ∨
      (∃ ws i, τ = .submit n ws ∧ decode (.request ws) = .ok i ∧ t.seq n = i.registers (s.seq n)) ∨
      (τ = .seq n ∧
        ∃ c, ((s.seq n).shape s.cfg).Moves s.cfg (s.seq n) (s.ctl (s.seq n).ctlid) (t.seq n) c) ∨
      ∃ ds, τ = .reset ds := by
  cases τ with
  | submit k ws =>
    rcases submitRequest_seq h n with e | ⟨rfl, i, hd, e⟩
    · exact .inl e
    · exact .inr (.inl ⟨ws, i, rfl, hd, e⟩)
  | readResult k => exact .inl (hostRead_seq h n)
  | seq k =>
    rcases seqStep_seq h n with e | ⟨rfl, hm⟩
    · exact .inl e
    · exact .inr (.inr (.inl ⟨rfl, hm⟩))
  | complete g e d => cases h; exact .inl (completeCommand_seq g e d s n)
  | drive g w => exact .inl (drivePort_seq h n)
  | agentWrite a b => cases h; exact .inl (s.seq_store none a.toNat b n)
  | agentRead a => cases h; exact .inl (agentRead_seq a s n)
  | reset ds => exact .inr (.inr (.inr ⟨ds, rfl⟩))

@[simp] theorem State.seq_tookTurn (s : State) (n : Nat) : s.tookTurn.seq n = s.seq n := by
  unfold State.tookTurn
  split <;> rfl

@[simp] theorem State.ctl_tookTurn (s : State) (g : Handle) : s.tookTurn.ctl g = s.ctl g := by
  unfold State.tookTurn
  split <;> rfl

@[simp] theorem State.cfg_tookTurn (s : State) : s.tookTurn.cfg = s.cfg := by
  unfold State.tookTurn
  split <;> rfl

/-- The writers of a sequencer, over the machine's step. -/
theorem step_seq {s t : State} (h : step s = .next t) (n : Nat) :
    t.seq n = s.seq n ∨
      (∃ ws i, s.nextTurn = .submit n ws ∧ decode (.request ws) = .ok i ∧ t.seq n = i.registers (s.seq n)) ∨
      (s.nextTurn = .seq n ∧
        ∃ c, ((s.seq n).shape s.cfg).Moves s.cfg (s.seq n) (s.ctl (s.seq n).ctlid) (t.seq n) c) ∨
      ∃ ds, s.nextTurn = .reset ds := by
  simpa using runTurn_seq h n

/-! ### The moves of a sequencer -/

/-- The registers a shape hands to its step, where it hands any. -/
def Shape.successor : Shape → Option Sequencer
  | .still | .address _ _ | .load _ _ | .command _ _ => none
  | .poll q | .check q | .pull _ q | .fill _ q | .move q | .finish _ q => some q

/-- A move leaves the registers its shape hands to it, or writes `S.TC`, `S.CAUSE` and `S.ST` alone. -/
theorem Shape.Moves.registers {sh : Shape} {p : Params} {q q' : Sequencer} {k k' : Controller}
    (h : sh.Moves p q k q' k') :
    sh.successor = some q' ∨ ∃ tc cause st, q' = { q with tc := tc, cause := cause, st := st } := by
  cases sh with
  | still => exact h.elim
  | address r next => obtain ⟨_, rfl, _⟩ := h; exact .inr ⟨q.tc, q.cause, next, rfl⟩
  | load i next => obtain ⟨_, rfl, _⟩ := h; exact .inr ⟨q.tc, q.cause, next, rfl⟩
  | command c next => obtain ⟨_, _, rfl, _⟩ := h; exact .inr ⟨0, q.cause, next, rfl⟩
  | poll r =>
    obtain ⟨_, ⟨_, rfl⟩ | ⟨_, _, rfl⟩ | ⟨_, _, v, rfl⟩⟩ := h
    · exact .inl rfl
    · exact .inr ⟨q.tc, .timeout, .doneFail, rfl⟩
    · exact .inr ⟨v, q.cause, q.st, rfl⟩
  | check r =>
    obtain ⟨_, rfl | rfl⟩ := h
    · exact .inl rfl
    · exact .inr ⟨q.tc, .busError, .doneFail, rfl⟩
  | pull _ r | fill _ r | move r | finish _ r => obtain ⟨_, rfl⟩ := h; exact .inl rfl

/-! ## The transaction latch (rule R27) -/

/-- `S.SA`, `S.WP`, `S.WN`, `S.RP` and `S.RN` (rule R27). -/
def Sequencer.latch (q : Sequencer) : SlaveAddr × Word × Word × Word × Word := (q.sa, q.wp, q.wn, q.rp, q.rn)

theorem Sequencer.latch_eq_iff {q q' : Sequencer} :
    q'.latch = q.latch ↔ q'.sa = q.sa ∧ q'.wp = q.wp ∧ q'.wn = q.wn ∧ q'.rp = q.rp ∧ q'.rn = q.rn := by
  simp only [Sequencer.latch, Prod.mk.injEq]

theorem afterSentinel_latch (last : Nat) (next : St) (q : Sequencer) :
    (afterSentinel last next q).latch = q.latch := by
  unfold afterSentinel
  split_ifs <;> rfl

theorem identityContinue_latch (p : Params) (q : Sequencer) : (identityContinue p q).latch = q.latch := by
  unfold identityContinue
  split <;> split_ifs <;> rfl

theorem Sequencer.endShape_keeps_latch {p : Params} {q r : Sequencer} (h : (q.endShape p).successor = some r) :
    r.latch = q.latch := by
  unfold Sequencer.endShape at h
  split_ifs at h <;> cases h
  · rfl
  · exact identityContinue_latch p q

/-- Every state but `ID_SN` and `ID_MAC` hands on the latch it holds. -/
theorem Sequencer.shape_keeps_latch {p : Params} {q r : Sequencer} (hsn : q.st ≠ .idSn) (hmac : q.st ≠ .idMac)
    (h : (q.shape p).successor = some r) : r.latch = q.latch := by
  unfold Sequencer.shape at h
  cases hst : q.st <;> simp only [hst] at h
  case idSn => exact absurd hst hsn
  case idMac => exact absurd hst hmac
  case doneOk => exact (Sequencer.endShape_keeps_latch h : r.latch = q.succeeded.latch)
  case doneFail => exact (Sequencer.endShape_keeps_latch h : r.latch = q.failed.latch)
  case check => cases h; split_ifs <;> rfl
  case idFill | idRefillSn | idRefillMac => cases h; exact afterSentinel_latch _ _ q
  all_goals cases h <;> rfl

/-- A sequencer's move writes the latch only in `ID_SN` and `ID_MAC`. -/
theorem Shape.Moves.keeps_latch {p : Params} {q q' : Sequencer} {k k' : Controller} (hsn : q.st ≠ .idSn)
    (hmac : q.st ≠ .idMac) (h : (q.shape p).Moves p q k q' k') : q'.latch = q.latch := by
  rcases h.registers with hs | ⟨_, _, _, rfl⟩
  · exact Sequencer.shape_keeps_latch hsn hmac hs
  · rfl

/-- An instruction writes the latch only where it is a `TRANSFER`. -/
theorem registers_keeps_latch {i : Instr} (hx : ∀ sa wp wn rp rn, i ≠ .xfer sa wp wn rp rn) (q : Sequencer) :
    (i.registers q).latch = q.latch := by
  cases i
  case xfer sa wp wn rp rn => exact absurd rfl (hx sa wp wn rp rn)
  all_goals rfl

/-- Settles O33, from the writers of a sequencer: of a request only the `TRANSFER`, of a sequencer's moves only those of
`ID_SN` and `ID_MAC` do not keep the latch. -/
theorem latchWrittenOnlyAtStart : Obligations.LatchWrittenOnlyAtStart := by
  intro s t n hstep hdiff
  have hlatch : (t.seq n).latch ≠ (s.seq n).latch := by
    rw [Ne, Sequencer.latch_eq_iff]
    tauto
  rcases step_seq hstep n with e | ⟨ws, i, hturn, hd, e⟩ | ⟨hturn, _, hmove⟩ | hreset
  · exact absurd (congrArg _ e) hlatch
  · by_contra hno
    refine hlatch (e ▸ registers_keeps_latch (fun sa wp wn rp rn hi => hno ?_) _)
    exact .inl ⟨ws, sa, wp, wn, rp, rn, hturn, hi ▸ hd⟩
  · refine .inr (.inl ⟨hturn, ?_⟩)
    by_contra hst
    obtain ⟨hsn, hmac⟩ := not_or.mp hst
    exact hlatch (hmove.keeps_latch hsn hmac)
  · exact .inr (.inr hreset)

end Sys2Proof.Machine

/-! ## The encodings, field by field -/

namespace Sys2Proof

/-! ### Fields of a word -/

/-- A field of a word is two fields side by side exactly where each part is. -/
theorem extractLsb'_eq_append_iff {n c d lo : Nat} {w : BitVec n} {x : BitVec c} {y : BitVec d} :
    w.extractLsb' lo (c + d) = x ++ y ↔ w.extractLsb' (lo + d) c = x ∧ w.extractLsb' lo d = y := by
  rw [← BitVec.extractLsb'_append_extractLsb'_eq_extractLsb' rfl]
  constructor
  · intro h
    constructor
    · simpa only [BitVec.extractLsb'_append_eq_left] using congrArg (BitVec.extractLsb' d c) h
    · simpa only [BitVec.extractLsb'_append_eq_right] using congrArg (BitVec.extractLsb' 0 d) h
  · rintro ⟨rfl, rfl⟩
    rfl

theorem eq_append_iff {c d : Nat} {w : BitVec (c + d)} {x : BitVec c} {y : BitVec d} :
    w = x ++ y ↔ w.extractLsb' d c = x ∧ w.extractLsb' 0 d = y := by
  simpa only [BitVec.extractLsb'_eq_self, Nat.zero_add] using
    extractLsb'_eq_append_iff (w := w) (lo := 0) (x := x) (y := y)

/-- A mask of the high bits sees the high field alone. -/
theorem and_highMask_eq_iff {c d : Nat} {w : BitVec (c + d)} {x : BitVec c} :
    w &&& (BitVec.allOnes c ++ 0#d) = x ++ 0#d ↔ w.extractLsb' d c = x := by
  conv_lhs => rw [← BitVec.extractLsb'_append_extractLsb' (x := w)]
  rw [BitVec.and_append, BitVec.and_allOnes, BitVec.and_zero, BitVec.append_left_inj]

theorem eq_headerWord_iff {hdr : Word} {op : BitVec 4} {sa : SlaveAddr} :
    hdr = headerWord op sa ↔
      (hdr.extractLsb' 28 4 = op ∧ hdr.extractLsb' 7 21 = 0) ∧ hdr.extractLsb' 0 7 = sa := by
  unfold headerWord
  rw [eq_append_iff (c := 25) (d := 7), extractLsb'_eq_append_iff (c := 4) (d := 21)]

theorem eq_portWord_iff {w : PortWord} {prim : BitVec 4} {operand : BitVec 8} :
    w = portWord prim operand ↔
      (w.extractLsb' 12 4 = prim ∧ w.extractLsb' 8 4 = 0) ∧ w.extractLsb' 0 8 = operand := by
  unfold portWord
  rw [eq_append_iff (c := 8) (d := 8), extractLsb'_eq_append_iff (c := 4) (d := 4)]

/-- The reserved bits of `INIT` and `READ_IDENTITY` are those of `TRANSFER` and its address field. -/
theorem eq_headerWord_zero_iff {hdr : Word} {op : BitVec 4} :
    hdr = headerWord op 0 ↔ hdr.extractLsb' 28 4 = op ∧ hdr.extractLsb' 0 28 = 0 := by
  rw [eq_headerWord_iff, and_assoc]
  exact and_congr_right' (extractLsb'_eq_append_iff (c := 21) (d := 7) (x := 0) (y := 0)).symm

/-- The reserved bits of a primitive without operand are those of `PutData` and its operand field. -/
theorem eq_portWord_zero_iff {w : PortWord} {prim : BitVec 4} :
    w = portWord prim 0 ↔ w.extractLsb' 12 4 = prim ∧ w.extractLsb' 0 12 = 0 := by
  rw [eq_portWord_iff, and_assoc]
  exact and_congr_right' (extractLsb'_eq_append_iff (c := 4) (d := 8) (x := 0) (y := 0)).symm

theorem Machine.Dir.eq_bit_iff {b : BitVec 1} {r : Machine.Dir} : b = r.bit ↔ Machine.Dir.ofBit b = r := by
  cases r <;> revert b <;> decide

theorem eq_ssaWord_iff {w : PortWord} {a : SlaveAddr} {r : Machine.Dir} :
    w = ssaWord a r ↔ (w.extractLsb' 12 4 = 1 ∧ w.extractLsb' 8 4 = 0) ∧
      w.extractLsb' 1 7 = a ∧ Machine.Dir.ofBit (w.extractLsb' 0 1) = r := by
  rw [ssaWord, eq_portWord_iff, extractLsb'_eq_append_iff (c := 7) (d := 1), Machine.Dir.eq_bit_iff]

/-- The reserved bits of an `IssueCommand` are those of `PutData` and the high half of its operand field. -/
theorem eq_commandWord_iff {w : PortWord} {code : BitVec 4} :
    w = portWord 0x4 (0#4 ++ code) ↔
      w.extractLsb' 12 4 = 4 ∧ w.extractLsb' 4 8 = 0 ∧ w.extractLsb' 0 4 = code := by
  rw [eq_portWord_iff, extractLsb'_eq_append_iff (c := 4) (d := 4), and_assoc, ← and_assoc (b := _ = 0#4)]
  exact and_congr_right' (and_congr_left' (extractLsb'_eq_append_iff (c := 4) (d := 4) (x := 0) (y := 0)).symm)

/-! ### Headers -/

/-- The header word of each request (rules R82 to R84). -/
def Header.word : Header → Word
  | .init => headerWord 0x1 0
  | .transfer sa => headerWord 0x2 sa
  | .readIdentity => headerWord 0x3 0

/-- A header decodes to a request exactly where it is that request's header word. -/
theorem decodeHeader_eq_ok_iff {hdr : Word} {h : Header} : decodeHeader hdr = .ok h ↔ hdr = h.word := by
  constructor
  · intro hd
    unfold decodeHeader at hd
    split at hd
    case h_4 => cases hd
    all_goals
      rename_i hop
      split_ifs at hd with hr
      cases hd
    · exact eq_headerWord_zero_iff.2 ⟨BitVec.eq_of_toNat_eq hop, hr⟩
    · exact eq_headerWord_iff.2 ⟨⟨BitVec.eq_of_toNat_eq hop, hr⟩, rfl⟩
    · exact eq_headerWord_zero_iff.2 ⟨BitVec.eq_of_toNat_eq hop, hr⟩
  · rintro rfl
    cases h with
    | init => rfl
    | readIdentity => rfl
    | transfer sa =>
      obtain ⟨⟨hop, hres⟩, hsa⟩ := eq_headerWord_iff.1 (rfl : headerWord 0x2 sa = _)
      rw [Header.word, decodeHeader, hop, hres, hsa]
      rfl

/-- Rule R86: the headers that are no request's. -/
def HeaderReserved (hdr : Word) : Prop :=
  let op := hdr.extractLsb' 28 4
  (op ≠ 1 ∧ op ≠ 2 ∧ op ≠ 3) ∨ (op = 2 ∧ hdr.extractLsb' 7 21 ≠ 0) ∨
    ((op = 1 ∨ op = 3) ∧ hdr.extractLsb' 0 28 ≠ 0)

theorem not_headerReserved_of_transfer {hdr : Word} (hop : hdr.extractLsb' 28 4 = 2) (hres : hdr.extractLsb' 7 21 = 0) :
    ¬HeaderReserved hdr := by
  simp [HeaderReserved, hop, hres]

/-- No header word of a request is reserved. -/
theorem Header.word_not_reserved (h : Header) : ¬HeaderReserved h.word := by
  cases h with
  | init => unfold HeaderReserved; decide
  | readIdentity => unfold HeaderReserved; decide
  | transfer sa =>
    obtain ⟨⟨hop, hres⟩, -⟩ := eq_headerWord_iff.1 (rfl : headerWord 0x2 sa = _)
    exact not_headerReserved_of_transfer hop hres

/-- A header that is not reserved is the header word of a request. -/
theorem exists_word_of_not_reserved {hdr : Word} (h : ¬HeaderReserved hdr) : ∃ r : Header, hdr = r.word := by
  obtain ⟨hop, htransfer, hfixed⟩ :
      (hdr.extractLsb' 28 4 = 1 ∨ hdr.extractLsb' 28 4 = 2 ∨ hdr.extractLsb' 28 4 = 3) ∧
      (hdr.extractLsb' 28 4 = 2 → hdr.extractLsb' 7 21 = 0) ∧
      (hdr.extractLsb' 28 4 = 1 ∨ hdr.extractLsb' 28 4 = 3 → hdr.extractLsb' 0 28 = 0) := by
    unfold HeaderReserved at h
    tauto
  rcases hop with hop | hop | hop
  · exact ⟨.init, eq_headerWord_zero_iff.2 ⟨hop, hfixed (.inl hop)⟩⟩
  · exact ⟨.transfer _, eq_headerWord_iff.2 ⟨⟨hop, htransfer hop⟩, rfl⟩⟩
  · exact ⟨.readIdentity, eq_headerWord_zero_iff.2 ⟨hop, hfixed (.inr hop)⟩⟩

theorem decodeHeader_ne_wrongLength (hdr : Word) : decodeHeader hdr ≠ .error .wrongLength := by
  unfold decodeHeader
  split
  case h_4 => nofun
  all_goals split_ifs <;> nofun

/-- A reserved header is an error of its own, never one of length. -/
theorem decodeHeader_of_reserved {hdr : Word} (h : HeaderReserved hdr) :
    ∃ e, e ≠ .wrongLength ∧ decodeHeader hdr = .error e := by
  cases hd : decodeHeader hdr with
  | ok r => exact absurd (decodeHeader_eq_ok_iff.1 hd ▸ h) r.word_not_reserved
  | error e => exact ⟨e, fun he => decodeHeader_ne_wrongLength hdr (he ▸ hd), rfl⟩

/-! ### Port words -/

/-- What a command code decodes to is encoded as the `IssueCommand` of that code (rule R91). -/
theorem encode_of_decodeCommand {code : BitVec 4} {i : Instr} (h : decodeCommand code = .ok i) :
    encode i = .port (portWord 0x4 (0#4 ++ code)) := by
  have hofNat : BitVec.ofNat 4 code.toNat = code := by simp
  unfold decodeCommand at h
  split at h
  case h_10 => cases h
  all_goals
    rename_i hcode
    cases h
    rw [← hofNat, hcode]
    rfl

/-- What a port word decodes to is encoded as that word (rules R88 to R92). -/
theorem encode_of_decodePort {w : PortWord} {i : Instr} (h : decodePort w = .ok i) : encode i = .port w := by
  unfold decodePort at h
  split at h
  case h_7 => cases h
  all_goals
    rename_i hprim
    split_ifs at h with hr
  · cases h
    exact congrArg Code.port (eq_ssaWord_iff.2 ⟨⟨BitVec.eq_of_toNat_eq hprim, hr⟩, rfl, rfl⟩).symm
  · cases h
    exact congrArg Code.port (eq_portWord_iff.2 ⟨⟨BitVec.eq_of_toNat_eq hprim, hr⟩, rfl⟩).symm
  · cases h
    exact congrArg Code.port (eq_portWord_zero_iff.2 ⟨BitVec.eq_of_toNat_eq hprim, hr⟩).symm
  · rw [encode_of_decodeCommand h, ← eq_commandWord_iff.2 ⟨BitVec.eq_of_toNat_eq hprim, hr, rfl⟩]
  · cases h
    exact congrArg Code.port (eq_portWord_zero_iff.2 ⟨BitVec.eq_of_toNat_eq hprim, hr⟩).symm
  · cases h
    exact congrArg Code.port (eq_portWord_zero_iff.2 ⟨BitVec.eq_of_toNat_eq hprim, hr⟩).symm

/-- A port instruction's word decodes to it (rules R88 to R92). -/
theorem decodePort_of_encode {w : PortWord} {i : Instr} (h : encode i = .port w) : decodePort w = .ok i := by
  cases i with
  | ssa a r =>
    cases h
    obtain ⟨⟨hp, hr⟩, ha, hbit⟩ := eq_ssaWord_iff.1 (rfl : ssaWord a r = _)
    rw [decodePort, hp, hr, ha, hbit]
    rfl
  | put b =>
    cases h
    obtain ⟨⟨hp, hr⟩, hop⟩ := eq_portWord_iff.1 (rfl : portWord 0x2 b = _)
    rw [decodePort, hp, hr, hop]
    rfl
  | init | xfer | rdid => nomatch h
  | get | isBusy | getError | cmdSingleSend | cmdBurstSendStart | cmdBurstSendContinue | cmdBurstSendFinish
  | cmdBurstReceiveStart | cmdBurstReceiveContinue | cmdBurstReceiveFinish | cmdBurstReceiveStop
  | cmdSingleReceiveNack => cases h; rfl

/-- A port word decodes to an instruction exactly where it is that instruction's word. -/
theorem decodePort_eq_ok_iff {w : PortWord} {i : Instr} : decodePort w = .ok i ↔ encode i = .port w :=
  ⟨encode_of_decodePort, decodePort_of_encode⟩

/-- Rule R94: the port words that are no instruction's. -/
def PortWordReserved (w : PortWord) : Prop :=
  let prim := w.extractLsb' 12 4
  (prim = 0 ∨ 7 ≤ prim.toNat) ∨ ((prim = 1 ∨ prim = 2) ∧ w.extractLsb' 8 4 ≠ 0) ∨
    ((prim = 3 ∨ prim = 5 ∨ prim = 6) ∧ w.extractLsb' 0 12 ≠ 0) ∨
    (prim = 4 ∧ (w.extractLsb' 4 8 ≠ 0 ∨ 9 ≤ (w.extractLsb' 0 4).toNat))

theorem not_portWordReserved_of_operand {w : PortWord} (hp : w.extractLsb' 12 4 = 1 ∨ w.extractLsb' 12 4 = 2)
    (hr : w.extractLsb' 8 4 = 0) : ¬PortWordReserved w := by
  rcases hp with hp | hp <;> simp [PortWordReserved, hp, hr]

/-- The word of an instruction is not reserved. -/
theorem not_portWordReserved_of_encode {w : PortWord} {i : Instr} (h : encode i = .port w) : ¬PortWordReserved w := by
  cases i with
  | ssa a r =>
    cases h
    obtain ⟨⟨hp, hr⟩, -⟩ := eq_ssaWord_iff.1 (rfl : ssaWord a r = _)
    exact not_portWordReserved_of_operand (.inl hp) hr
  | put b =>
    cases h
    obtain ⟨⟨hp, hr⟩, -⟩ := eq_portWord_iff.1 (rfl : portWord 0x2 b = _)
    exact not_portWordReserved_of_operand (.inr hp) hr
  | init | xfer | rdid => nomatch h
  | get | isBusy | getError | cmdSingleSend | cmdBurstSendStart | cmdBurstSendContinue | cmdBurstSendFinish
  | cmdBurstReceiveStart | cmdBurstReceiveContinue | cmdBurstReceiveFinish | cmdBurstReceiveStop
  | cmdSingleReceiveNack => cases h; unfold PortWordReserved; decide

/-! ### The opcode table (rule R96) -/

/-- The first word of every instruction's code is a word of its own row. -/
theorem tableRow (i : Instr) : Laws.TableRow.Statement i := by
  cases i with
  | init cid => exact Laws.TableRow.init cid
  | xfer sa wp wn rp rn => exact Laws.TableRow.xfer sa wp wn rp rn
  | rdid snp macp => exact Laws.TableRow.rdid snp macp
  | ssa a r => exact Laws.TableRow.ssa a r
  | put b => exact Laws.TableRow.put b
  | get => exact Laws.TableRow.get
  | cmdSingleSend => exact Laws.TableRow.cmdSingleSend
  | cmdBurstSendStart => exact Laws.TableRow.cmdBurstSendStart
  | cmdBurstSendContinue => exact Laws.TableRow.cmdBurstSendContinue
  | cmdBurstSendFinish => exact Laws.TableRow.cmdBurstSendFinish
  | cmdBurstReceiveStart => exact Laws.TableRow.cmdBurstReceiveStart
  | cmdBurstReceiveContinue => exact Laws.TableRow.cmdBurstReceiveContinue
  | cmdBurstReceiveFinish => exact Laws.TableRow.cmdBurstReceiveFinish
  | cmdBurstReceiveStop => exact Laws.TableRow.cmdBurstReceiveStop
  | cmdSingleReceiveNack => exact Laws.TableRow.cmdSingleReceiveNack
  | isBusy => exact Laws.TableRow.isBusy
  | getError => exact Laws.TableRow.getError

theorem opcodeTable_pairwise : opcodeTable.Pairwise (fun r q => r.overlaps q = false) := by decide

theorem portRows_fit : ∀ r ∈ portRows,
    (r.mask.setWidth 16).setWidth 32 = r.mask ∧ (r.value.setWidth 16).setWidth 32 = r.value := by decide

theorem mem_portRows_of_width : ∀ r ∈ opcodeTable, r.width = 16 → r ∈ portRows := by decide

/-- A port row sees a port word through its mask alone. -/
theorem portRow_matchesWord_iff {r : OpcodeRow} (hr : r ∈ portRows) {w : PortWord} :
    r.matchesWord (w.setWidth 32) = true ↔ w &&& r.mask.setWidth 16 = r.value.setWidth 16 := by
  obtain ⟨hmask, hvalue⟩ := portRows_fit r hr
  rw [OpcodeRow.matchesWord, beq_iff_eq]
  constructor
  · intro h
    simpa [BitVec.setWidth_and] using congrArg (BitVec.setWidth 16) h
  · intro h
    simpa only [BitVec.setWidth_and, hmask, hvalue] using congrArg (BitVec.setWidth 32) h

/-- The mask of the `SSA` and `PUT` rows sees `PRIM` and the reserved operand bits. -/
theorem port_fields_of_mask {w : PortWord} {prim : BitVec 4} (h : w &&& 0xFF00 = (prim ++ 0#4) ++ 0#8) :
    w.extractLsb' 12 4 = prim ∧ w.extractLsb' 8 4 = 0 :=
  (extractLsb'_eq_append_iff (c := 4) (d := 4)).1 ((and_highMask_eq_iff (c := 8) (d := 8)).1 h)

/-- A word that a port row matches is the word of an instruction of that row. -/
theorem exists_encode_of_portRow {r : OpcodeRow} (hr : r ∈ portRows) {w : PortWord}
    (h : r.matchesWord (w.setWidth 32) = true) : ∃ i : Instr, encode i = .port w ∧ i.mnemonic = r.mnemonic := by
  rw [portRow_matchesWord_iff hr] at h
  have fixed {i : Instr} {v : PortWord} (hv : w &&& 0xFFFF = v) (hi : encode i = .port v) : encode i = .port w := by
    rw [hi, ← hv, show (0xFFFF : PortWord) = BitVec.allOnes 16 from rfl, BitVec.and_allOnes]
  simp only [portRows, commandRows, List.cons_append, List.nil_append, List.mem_cons, List.not_mem_nil, or_false] at hr
  rcases hr with rfl | rfl | rfl | rfl | rfl | rfl | rfl | rfl | rfl | rfl | rfl | rfl | rfl | rfl
  · have hfields := port_fields_of_mask (prim := 0x1) h
    exact ⟨.ssa _ _, congrArg Code.port (eq_ssaWord_iff.2 ⟨hfields, rfl, rfl⟩).symm, rfl⟩
  · have hfields := port_fields_of_mask (prim := 0x2) h
    exact ⟨.put _, congrArg Code.port (eq_portWord_iff.2 ⟨hfields, rfl⟩).symm, rfl⟩
  · exact ⟨.get, fixed h rfl, rfl⟩
  · exact ⟨.cmdSingleSend, fixed h rfl, rfl⟩
  · exact ⟨.cmdBurstSendStart, fixed h rfl, rfl⟩
  · exact ⟨.cmdBurstSendContinue, fixed h rfl, rfl⟩
  · exact ⟨.cmdBurstSendFinish, fixed h rfl, rfl⟩
  · exact ⟨.cmdBurstReceiveStart, fixed h rfl, rfl⟩
  · exact ⟨.cmdBurstReceiveContinue, fixed h rfl, rfl⟩
  · exact ⟨.cmdBurstReceiveFinish, fixed h rfl, rfl⟩
  · exact ⟨.cmdBurstReceiveStop, fixed h rfl, rfl⟩
  · exact ⟨.cmdSingleReceiveNack, fixed h rfl, rfl⟩
  · exact ⟨.isBusy, fixed h rfl, rfl⟩
  · exact ⟨.getError, fixed h rfl, rfl⟩

/-- The word of a port instruction is matched by that instruction's row. -/
theorem exists_portRow_of_encode {w : PortWord} {i : Instr} (h : encode i = .port w) :
    ∃ r ∈ portRows, r.mnemonic = i.mnemonic ∧ r.matchesWord (w.setWidth 32) = true := by
  obtain ⟨r, hr, hname, hwidth, hmatch⟩ := tableRow i
  rw [h] at hwidth hmatch
  exact ⟨r, mem_portRows_of_width r hr hwidth, hname, hmatch⟩

/-- The `INIT` and `RDID` rows match one word, that of the header. -/
theorem decodeHeader_eq_ok_iff_fixedRow {hdr : Word} {h : Header} :
    decodeHeader hdr = .ok h ↔ hdr &&& 0xFFFFFFFF = h.word := by
  rw [decodeHeader_eq_ok_iff, show (0xFFFFFFFF : Word) = BitVec.allOnes 32 from rfl, BitVec.and_allOnes]

/-- The `XFER` row leaves the address field open. -/
theorem decodeHeader_transfer_iff {hdr : Word} :
    (∃ sa, decodeHeader hdr = .ok (.transfer sa)) ↔ hdr &&& 0xFFFFFF80 = 0x20000000 := by
  have row : hdr &&& 0xFFFFFF80 = 0x20000000 ↔ hdr.extractLsb' 28 4 = 2 ∧ hdr.extractLsb' 7 21 = 0 :=
    (and_highMask_eq_iff (c := 25) (d := 7) (x := 2#4 ++ 0#21)).trans (extractLsb'_eq_append_iff (c := 4) (d := 21))
  simp only [row, decodeHeader_eq_ok_iff, Header.word, eq_headerWord_iff]
  exact ⟨fun ⟨_, hfields, _⟩ => hfields, fun hfields => ⟨_, hfields, rfl⟩⟩

/-- Settles O5: headers and port words decode exactly where they are encodings, and an encoding is a word of its
instruction's row. -/
theorem decodersFollowOpcodeTable : Obligations.DecodersFollowOpcodeTable := by
  refine ⟨opcodeTable_pairwise, fun hdr => ⟨?_, ?_, ?_⟩, fun w i hd => ?_, fun w r hr hmatch => ?_⟩
  · exact decodeHeader_eq_ok_iff_fixedRow
  · exact decodeHeader_transfer_iff
  · exact decodeHeader_eq_ok_iff_fixedRow
  · exact exists_portRow_of_encode (decodePort_eq_ok_iff.1 hd)
  · obtain ⟨i, hi, hname⟩ := exists_encode_of_portRow hr hmatch
    exact ⟨i, decodePort_eq_ok_iff.2 hi, hname⟩

end Sys2Proof

namespace Sys2Proof.Machine

/-- A step takes the turn at the head of the list. -/
theorem step_of_env {s : State} {t : Turn} {rest : List Turn} (h : s.env = t :: rest) :
    step s = runTurn t { s with env := rest } := by
  rw [step, State.nextTurn, State.tookTurn, h]

theorem submitRequest_of_reserved {hdr : Word} (h : HeaderReserved hdr) (n : Nat) (ops : List Word) (s : State) :
    submitRequest n (hdr :: ops) s = .refused .badDescriptor := by
  obtain ⟨e, hne, hd⟩ := decodeHeader_of_reserved h
  cases e with
  | wrongLength => exact absurd rfl hne
  | reservedOp | reservedBits | reservedPrim | reservedOperand | reservedCode =>
    simp only [submitRequest, decode, decodeRequest, hd]

theorem drivePort_of_reserved {w : PortWord} (h : PortWordReserved w) (g : Handle) (s : State) :
    drivePort g w s = .refused .badPortWord := by
  unfold drivePort
  split
  · next i hd => exact absurd h (not_portWordReserved_of_encode (decodePort_eq_ok_iff.1 hd))
  · rfl

/-- The word of a port operation is an instruction's. -/
theorem PortOp.exists_encode_eq_word (o : PortOp) : ∃ i : Instr, encode i = .port o.word := by
  cases o with
  | setSlaveAddress a r => exact ⟨.ssa a r, rfl⟩
  | putData b => exact ⟨.put b, rfl⟩
  | getData b => exact ⟨.get, rfl⟩
  | isBusy v => exact ⟨.isBusy, rfl⟩
  | getError e => exact ⟨.getError, rfl⟩
  | issueCommand c =>
    cases c with
    | singleSend => exact ⟨.cmdSingleSend, rfl⟩
    | burstSendStart => exact ⟨.cmdBurstSendStart, rfl⟩
    | burstSendContinue => exact ⟨.cmdBurstSendContinue, rfl⟩
    | burstSendFinish => exact ⟨.cmdBurstSendFinish, rfl⟩
    | burstReceiveStart => exact ⟨.cmdBurstReceiveStart, rfl⟩
    | burstReceiveContinue => exact ⟨.cmdBurstReceiveContinue, rfl⟩
    | burstReceiveFinish => exact ⟨.cmdBurstReceiveFinish, rfl⟩
    | burstReceiveStop => exact ⟨.cmdBurstReceiveStop, rfl⟩
    | singleReceiveNack => exact ⟨.cmdSingleReceiveNack, rfl⟩

/-- Settles O3: the headers that are not reserved are the header words of the three requests, and these alone decode. -/
theorem reservedHeadersRefused : Obligations.ReservedHeadersRefused := by
  intro s n hdr ops rest
  refine ⟨fun hres henv => ?_, fun hok => ?_⟩
  · rw [step_of_env henv]
    exact submitRequest_of_reserved hres n ops _
  · obtain ⟨r, hr⟩ := exists_word_of_not_reserved hok
    exact ⟨r, decodeHeader_eq_ok_iff.2 hr⟩

/-- Settles O4: only words of instructions decode, and none of these is reserved. -/
theorem reservedPortWordsRefused : Obligations.ReservedPortWordsRefused := by
  refine ⟨fun s g w rest hres henv => ?_, fun o => ?_⟩
  · rw [step_of_env henv]
    exact drivePort_of_reserved hres g _
  · obtain ⟨i, hi⟩ := o.exists_encode_eq_word
    exact ⟨i, decodePort_eq_ok_iff.2 hi⟩

end Sys2Proof.Machine

/-! ## Port operations and the controller's completion -/

namespace Sys2Proof

/-! ### The words as the rules write them: fields shifted into place and joined (rules R88 to R91) -/

/-- A port word by its two fields. -/
theorem portWord_eq_or (prim : BitVec 4) (operand : BitVec 8) :
    portWord prim operand = prim.setWidth 16 <<< 12 ||| operand.setWidth 16 := by
  simpa [portWord] using
    BitVec.setWidth_append_append_eq_shiftLeft_setWidth_or (w''' := 16) (b := prim) (b' := 0#4) (b'' := operand)

/-- Rule R89. -/
theorem ssaWord_eq_or (a : SlaveAddr) (r : Machine.Dir) :
    ssaWord a r = 0x1000 ||| a.setWidth 16 <<< 1 ||| r.bit.setWidth 16 := by
  rw [ssaWord, portWord_eq_or, BitVec.or_assoc]
  exact congrArg (0x1000#16 ||| ·) BitVec.setWidth_append_eq_shiftLeft_setWidth_or

/-- Rule R91. -/
theorem cmdWord_eq_or (c : Machine.Cmd) : cmdWord c = 0x4000 ||| c.code.setWidth 16 := by
  rw [cmdWord, portWord_eq_or, BitVec.setWidth_append_eq_shiftLeft_setWidth_or]
  simp

end Sys2Proof

namespace Sys2Proof.Machine

/-! ### The commands, one by one (rule R91) -/

theorem Cmd.dir_eq_write_iff {c : Cmd} :
    c.dir = .write ↔ c = .singleSend ∨ c = .burstSendStart ∨ c = .burstSendContinue ∨ c = .burstSendFinish := by
  cases c <;> simp [Cmd.dir]

theorem Cmd.receives_iff {c : Cmd} :
    c.receives = true ↔
      c = .burstReceiveStart ∨ c = .burstReceiveContinue ∨ c = .burstReceiveFinish ∨ c = .singleReceiveNack := by
  cases c <;> simp [Cmd.receives]

/-- A command instruction is the word of its command, and performs `IssueCommand` of it (rules R114 to R123). -/
theorem command_instruction {i : Instr} {c : Cmd} (h : commandOf i = some c) :
    encode i = .port (cmdWord c) ∧ ∀ s : State, exec i s = portIssueCommand s.portBy c s := by
  cases i with
  | init | xfer | rdid | ssa | put | get | isBusy | getError => nomatch h
  | cmdSingleSend | cmdBurstSendStart | cmdBurstSendContinue | cmdBurstSendFinish | cmdBurstReceiveStart
  | cmdBurstReceiveContinue | cmdBurstReceiveFinish | cmdBurstReceiveStop | cmdSingleReceiveNack =>
    cases h
    exact ⟨rfl, fun _ => rfl⟩

/-! ### The primitives -/

/-- What a primitive that writes its controller leaves: the controller written and one event logged. -/
theorem exists_next_of_setCtl_logPort {x : Result} {s : State} {h : Handle} {k : Controller} {w : Who} {op : PortOp}
    (e : x = .next ((s.setCtl h k).logPort w op)) :
    ∃ t, x = .next t ∧ t.ctl h = k ∧ t.h = s.h ++ [.port w op] :=
  ⟨_, e, by simp, rfl⟩

/-- Settles O13: the primitive faults on a busy port, and else writes the two address fields and logs the event. -/
theorem setSlaveAddressWritesAddress : Obligations.SetSlaveAddressWritesAddress := by
  intro a r s
  refine ⟨congrArg Code.port (ssaWord_eq_or a r), ?_⟩
  rcases portSetSlaveAddress_cases s.portBy a r s with ⟨hb, e⟩ | ⟨hb, e⟩
  · exact ⟨fun _ => e, by simp [hb]⟩
  · exact ⟨by simp [hb], fun _ => exists_next_of_setCtl_logPort e⟩

/-- Settles O14: the primitive faults on a busy port, and else writes the data register and logs the event. -/
theorem putDataWritesDataRegister : Obligations.PutDataWritesDataRegister := by
  intro b s
  refine ⟨congrArg Code.port (portWord_eq_or 0x2 b), ?_⟩
  rcases portPutData_cases s.portBy b s with ⟨hb, e⟩ | ⟨hb, e⟩
  · exact ⟨fun _ => e, by simp [hb]⟩
  · exact ⟨by simp [hb], fun _ => exists_next_of_setCtl_logPort e⟩

/-- Settles O16: each command instruction is `IssueCommand`, which checks the port, then the direction, then issues. -/
theorem issueCommandStartsCommand : Obligations.IssueCommandStartsCommand := by
  refine ⟨fun _ => Cmd.dir_eq_write_iff, fun i c s hi => ?_⟩
  obtain ⟨hword, hexec⟩ := command_instruction hi
  refine ⟨hword.trans (congrArg Code.port (cmdWord_eq_or c)), ?_⟩
  rw [hexec s]
  rcases portIssueCommand_cases s.portBy c s with ⟨hb, e⟩ | ⟨hb, hd, e⟩ | ⟨hb, hd, e⟩
  · exact ⟨fun _ => e, by simp [hb], by simp [hb]⟩
  · exact ⟨by simp [hb], fun _ _ => e, fun _ hdir => absurd hdir hd⟩
  · exact ⟨by simp [hb], fun _ hdir => absurd hd hdir, fun _ _ => exists_next_of_setCtl_logPort e⟩

/-- Settles O17: `IsBusy` only logs the bit it reads. -/
theorem isBusyReadsBusy : Obligations.IsBusyReadsBusy :=
  ⟨rfl, fun s => ⟨s.logPort s.portBy (.isBusy (s.ctl (s.handleOf s.portBy)).busy), rfl, rfl,
    s.ctl_logPort s.portBy (.isBusy _)⟩⟩

/-! ### Completion (rule R124) -/

section
variable {h : Handle} {e : BusErr} {d : Byte} {c : Cmd} {s : State}

theorem completeCommand_of_idle (hi : (s.ctl h).infl = none) : completeCommand h e d s = s := by
  rcases completeCommand_cases h e d s with ⟨-, hs⟩ | ⟨c, hc, -⟩
  · exact hs
  · simp [hi] at hc

theorem completeCommand_of_inFlight (hi : (s.ctl h).infl = some c) :
    completeCommand h e d s =
      { s.setCtl h ((s.ctl h).complete c e d) with
        h := s.h ++ [.complete h c e (if c.receives then some d else none)] } := by
  rcases completeCommand_cases h e d s with ⟨hn, -⟩ | ⟨c', hc, hs⟩
  · simp [hi] at hn
  · cases hi.symm.trans hc
    exact hs

/-- The completion of a command in flight writes its own controller, appends one event to `H`, and leaves the rest. -/
theorem completeCommand_effect (hi : (s.ctl h).infl = some c) :
    (completeCommand h e d s).ctl h = (s.ctl h).complete c e d ∧
      (completeCommand h e d s).h = s.h ++ [.complete h c e (if c.receives then some d else none)] ∧
      s.SameCtlsBut (completeCommand h e d s) h ∧ (∀ m, (completeCommand h e d s).seq m = s.seq m) ∧
      s.SameMemory (completeCommand h e d s) ∧ s.SameAround (completeCommand h e d s) ∧
      (completeCommand h e d s).mh = s.mh ∧ (completeCommand h e d s).hh = s.hh := by
  rw [completeCommand_of_inFlight hi]
  exact ⟨(s.ctl_setCtl h h _).trans (if_pos rfl), rfl, fun g hg => (s.ctl_setCtl h g _).trans (if_neg hg),
    fun _ => rfl, fun _ => rfl, ⟨rfl, rfl, rfl, rfl, rfl, rfl⟩, rfl, rfl⟩

end

/-- The byte drawn is written where the command receives one. -/
theorem Controller.data_complete (c : Cmd) (e : BusErr) (d : Byte) (k : Controller) :
    (k.complete c e d).data = if c.receives then some d else k.data := rfl

/-- Settles O20: the completion is that of the command in flight, and the byte drawn counts where the command receives one. -/
theorem completionWritesDraws : Obligations.CompletionWritesDraws := by
  intro h e d s
  refine ⟨completeCommand h e d s, rfl, completeCommand_of_idle, fun c hi => ?_⟩
  obtain ⟨hctl, hlog, hframe⟩ := completeCommand_effect (e := e) (d := d) hi
  obtain ⟨hbusy, hinfl, herr, haddr, hrw⟩ := Controller.complete_idle c e d (s.ctl h)
  rw [← Cmd.receives_iff, hctl, hlog, Controller.data_complete]
  refine ⟨herr, hinfl, hbusy, haddr, hrw, fun hr => ?_, fun hr => ?_, hframe⟩
  · simp [hr]
  · simp [hr]

end Sys2Proof.Machine

/-! ## The states of the transfer engine -/

namespace Sys2Proof.Machine

/-! ### One lemma for the states of a shape: what the step answers -/

section
variable {n : Nat} {s : State}

theorem seqStep_of_shape {sh : Shape} (h : (s.seq n).shape s.cfg = sh) : seqStep n s = sh.run n s := by
  rw [seqStep_shape, h]

/-- The poll just made is the k-th busy one (rules R127, R214). -/
theorem timedOut_iff {timeout : Option Nat} {tc : Word} :
    timedOut timeout tc = true ↔ ∃ k, timeout = some k ∧ k ≤ tc.toNat + 1 := by
  cases timeout <;> simp [timedOut]

theorem ofNat_toNat_add_one (w : Word) : BitVec.ofNat 32 (w.toNat + 1) = w + 1 :=
  BitVec.eq_of_toNat_eq (by simp)

/-- A poll counted writes `S.TC`, by adding 1 where the sum fits, and leaves what the port and memory show. -/
theorem countPoll_effect (n : Nat) (s : State) :
    (countPoll n s).h = s.h ∧ s.SameCtls (countPoll n s) ∧ s.SameMemory (countPoll n s) ∧
      (countPoll n s).mh = s.mh ∧ (countPoll n s).hh = s.hh ∧
      ∃ c, (countPoll n s).seq n = { s.seq n with tc := c } ∧
        ((s.seq n).tc.toNat + 1 < 2 ^ 32 → c = (s.seq n).tc + 1) := by
  rcases countPoll_cases n s with ⟨_, e⟩ | ⟨hover, e⟩ <;> rw [e]
  · exact ⟨rfl, fun _ => rfl, fun _ => rfl, rfl, rfl, _, by simp, fun _ => ofNat_toNat_add_one _⟩
  · exact ⟨rfl, fun _ => rfl, fun _ => rfl, rfl, rfl, Config.freeCount s.draws, by simp,
      fun hfits => absurd hfits hover⟩

/-- The status read from an idle controller is its `CTL.ERR`, where that is known (rule R126). -/
theorem portGetError_of_known {w : Who} {d : BusErr} (hb : (s.ctl (s.handleOf w)).busy = false)
    (he : (s.ctl (s.handleOf w)).err = some d) : (portGetError w s).1 = d := by
  rcases portGetError_cases w s with ⟨e, hshown, hread⟩ | ⟨hshown, _⟩ <;>
    rw [Controller.shownErr_idle _ hb, he] at hshown <;> cases hshown
  rw [hread]

/-- The address states: the port was busy, or the address goes to the controller (rule R111). -/
theorem seqStep_address {r : Dir} {next : St} (h : (s.seq n).shape s.cfg = .address r next) :
    ((s.ctl (s.seq n).ctlid).busy = true → seqStep n s = .fault .portBusy) ∧
    ((s.ctl (s.seq n).ctlid).busy = false →
      ∃ t, seqStep n s = .next t ∧ t.seq n = { s.seq n with st := next } ∧
        t.ctl (s.seq n).ctlid = (s.ctl (s.seq n).ctlid).address (s.seq n).sa r ∧
        t.h = s.h ++ [.port (.inst n) (.setSlaveAddress (s.seq n).sa r)] ∧
        s.SameMemory t ∧ t.mh = s.mh ∧ t.hh = s.hh) := by
  rw [seqStep_of_shape h, Shape.run]
  rcases saStep_cases n r next s with ⟨hb, e⟩ | ⟨hb, e⟩
  · exact ⟨fun _ => e, by simp [hb]⟩
  · exact ⟨by simp [hb], fun _ => ⟨_, e, by simp [State.goto], by simp [State.goto], rfl, fun _ => rfl, rfl, rfl⟩⟩

/-- The command states: the port was busy, or addressed in the other direction, or the command goes in flight (rule R114). -/
theorem seqStep_command {c : Cmd} {next : St} (h : (s.seq n).shape s.cfg = .command c next) :
    ((s.ctl (s.seq n).ctlid).busy = true → seqStep n s = .fault .portBusy) ∧
    ((s.ctl (s.seq n).ctlid).busy = false → c.dir ≠ (s.ctl (s.seq n).ctlid).rw → seqStep n s = .fault .dirMismatch) ∧
    ((s.ctl (s.seq n).ctlid).busy = false → c.dir = (s.ctl (s.seq n).ctlid).rw →
      ∃ t, seqStep n s = .next t ∧ t.seq n = { s.seq n with st := next, tc := 0 } ∧
        t.ctl (s.seq n).ctlid = (s.ctl (s.seq n).ctlid).issue c ∧
        t.h = s.h ++ [.port (.inst n) (.issueCommand c)] ∧
        s.SameMemory t ∧ t.mh = s.mh ∧ t.hh = s.hh) := by
  rw [seqStep_of_shape h, Shape.run]
  rcases cmdStep_cases n c next s with ⟨hb, e⟩ | ⟨hb, hd, e⟩ | ⟨hb, hd, e⟩
  · exact ⟨fun _ => e, by simp [hb], by simp [hb]⟩
  · exact ⟨by simp [hb], fun _ _ => e, fun _ hdir => absurd hdir hd⟩
  · exact ⟨by simp [hb], fun _ hdir => absurd hd hdir, fun _ _ => ⟨_, e, by simp, by simp, rfl, fun _ => rfl, rfl, rfl⟩⟩

/-- The busy-wait states: one poll, which leaves `q`, aborts or is counted (rules R127, R145). -/
theorem seqStep_poll {q : Sequencer} (h : (s.seq n).shape s.cfg = .poll q) :
    ∃ t, seqStep n s = .next t ∧
      t.h = s.h ++ [.port (.inst n) (.isBusy (s.ctl (s.seq n).ctlid).busy)] ∧ s.SameCtls t ∧ s.SameMemory t ∧
      t.mh = s.mh ∧ t.hh = s.hh ∧
      ((s.ctl (s.seq n).ctlid).busy = false → t.seq n = q) ∧
      ((s.ctl (s.seq n).ctlid).busy = true →
        ((∃ k, s.cfg.busyTimeout = some k ∧ k ≤ (s.seq n).tc.toNat + 1) →
          t.seq n = { s.seq n with st := .doneFail, cause := .timeout }) ∧
        ((∀ k, s.cfg.busyTimeout = some k → (s.seq n).tc.toNat + 1 < k) →
          ∃ c, t.seq n = { s.seq n with tc := c } ∧ ((s.seq n).tc.toNat + 1 < 2 ^ 32 → c = (s.seq n).tc + 1))) := by
  rw [seqStep_of_shape h, Shape.run]
  rcases pollStep_cases n (fun _ => q) s with ⟨hb, e⟩ | ⟨hb, ht, e⟩ | ⟨hb, ht, e⟩ <;> rw [hb]
  · exact ⟨_, e, rfl, fun _ => rfl, fun _ => rfl, rfl, rfl, fun _ => by simp, nofun⟩
  · obtain ⟨k, hk, hle⟩ := timedOut_iff.1 ht
    exact ⟨_, e, rfl, fun _ => rfl, fun _ => rfl, rfl, rfl, nofun,
      fun _ => ⟨fun _ => by simp [fail], fun hlt => absurd hle (Nat.not_le.2 (hlt k hk))⟩⟩
  · obtain ⟨hh, hctl, hmem, hmh, hhh, hcount⟩ := countPoll_effect n (s.logPort (.inst n) (.isBusy true))
    exact ⟨_, e, hh, hctl, hmem, hmh, hhh, nofun,
      fun _ => ⟨fun hk => absurd (timedOut_iff.2 hk) (by simp [ht]), fun _ => hcount⟩⟩

/-- The error-check states: one read of the status, which aborts or leaves `q` (rule R146). -/
theorem seqStep_errorCheck {q : Sequencer} (h : (s.seq n).shape s.cfg = .check q) :
    ∃ (t : State) (e : BusErr), seqStep n s = .next t ∧ t.h = s.h ++ [.port (.inst n) (.getError e)] ∧ s.SameCtls t ∧
      s.SameMemory t ∧ t.mh = s.mh ∧ t.hh = s.hh ∧
      (∀ d, (s.ctl (s.seq n).ctlid).busy = false → (s.ctl (s.seq n).ctlid).err = some d → e = d) ∧
      (e = .error → t.seq n = { s.seq n with st := .doneFail, cause := .busError }) ∧ (e = .none → t.seq n = q) := by
  rw [seqStep_of_shape h, Shape.run]
  obtain ⟨e, u, hread, hstep⟩ := errStep_cases n (fun _ => q) s
  obtain ⟨hseqs, hctls, hmem, -, -, hmh, hhh, -, -, -, -, hh⟩ := portGetError_same (.inst n) s
  have hknown (d) := portGetError_of_known (s := s) (w := .inst n) (d := d)
  rw [hread] at hseqs hctls hmem hmh hhh hh hknown
  have hctl : s.SameCtls u := fun g => by rw [State.ctl, hctls]; rfl
  have hbyte : s.SameMemory u := fun a => by rw [State.byteAt, hmem]; rfl
  rcases hstep with ⟨rfl, hstep⟩ | ⟨rfl, hstep⟩
  · exact ⟨_, _, hstep, hh, hctl, hbyte, hmh, hhh, hknown, fun _ => by simp [fail, State.seq_congr hseqs], nofun⟩
  · exact ⟨_, _, hstep, hh, hctl, hbyte, hmh, hhh, hknown, nofun, fun _ => by simp⟩

end

/-! ### The statements: each state has its shape -/

/-- Settles O40: each of the eight states has the shape of an address step. -/
theorem addressStates : Obligations.AddressStates := by
  intro n s st next r hrow hst
  have hshape : (s.seq n).shape s.cfg = .address r next := by
    fin_cases hrow <;> simp only [Sequencer.shape, hst]
  obtain ⟨hbusy, hidle⟩ := seqStep_address hshape
  refine ⟨hbusy, fun hb => ?_⟩
  obtain ⟨t, hstep, hseq, hctl, hh, hframe⟩ := hidle hb
  exact ⟨t, hstep, hseq, hctl, hh, ssaWord_eq_or _ _, hframe⟩

/-- Settles O42: each of the nine states has the shape of a command step. -/
theorem commandStates : Obligations.CommandStates := by
  intro n s st next c hrow hst
  have hshape : (s.seq n).shape s.cfg = .command c next := by
    fin_cases hrow <;> simp only [Sequencer.shape, hst]
  obtain ⟨hbusy, hother, hidle⟩ := seqStep_command hshape
  refine ⟨hbusy, hother, fun hb hdir => ?_⟩
  obtain ⟨t, hstep, hseq, hctl, hh, hframe⟩ := hidle hb hdir
  exact ⟨t, hstep, hseq, hctl, hh, cmdWord_eq_or c, hframe⟩

/-- Settles O43: each of the nine states has the shape of a busy-wait, and hands it the registers of the idle case. -/
theorem busyWaitStates : Obligations.BusyWaitStates := by
  intro n s st next hrow hst
  refine seqStep_poll ?_
  fin_cases hrow <;> simp only [Sequencer.shape, hst] <;> rfl

/-- Settles O44: each of the five states has the shape of an error check, and hands it the registers of the case of no error.
That `S.I + 1` is in range is not needed: the two ways to write the sum agree in 32 bits. -/
theorem errorCheckStates : Obligations.ErrorCheckStates := by
  intro n s st next hrow hst _
  refine seqStep_errorCheck ?_
  fin_cases hrow <;> simp only [Sequencer.shape, hst, afterMiddle, ofNat_toNat_add_one] <;> rfl

/-- Settles O46: both states move without a port operation, to the registers of the branch that the counts take. -/
theorem checkChoosesPhase : Obligations.CheckChoosesPhase := by
  intro n s
  have toNat_ne_zero {w : Word} (hw : w ≠ 0) : w.toNat ≠ 0 := fun h => hw (BitVec.eq_of_toNat_eq h)
  constructor
  · intro hst
    simp only [seqStep_shape, Sequencer.shape, hst, Shape.run]
    refine ⟨_, rfl, rfl, rfl, ?_⟩
    simp only [State.seq_setSeq, if_true]
    refine ⟨fun hwn hrn => ?_, fun hwn => ?_, fun hwn => ?_, fun hwn hrn => ?_⟩
    · simp [hwn, hrn]
    · simp [hwn]
    · rw [if_neg (by omega), if_neg (by omega), if_pos hwn]
    · simp [hwn, toNat_ne_zero hrn]
  · intro hst
    simp only [seqStep_shape, Sequencer.shape, hst, Shape.run]
    refine ⟨_, rfl, rfl, rfl, ?_⟩
    simp only [State.seq_setSeq, if_true]
    refine ⟨fun hrn => ?_, fun hrn => ?_, fun hrn => ?_⟩
    · simp [hrn]
    · rw [if_neg (by omega), if_pos hrn]
    · simp [hrn]

end Sys2Proof.Machine

/-! ## The steps without a port operation, and the Identity Reader -/

namespace Sys2Proof.Machine

/-! ### One lemma for each of the two shapes -/

section
variable {n : Nat} {s : State} {q : Sequencer}

/-- A step of registers alone: nothing goes to the port, to memory or to the host. -/
theorem seqStep_move (h : (s.seq n).shape s.cfg = .move q) :
    ∃ t, seqStep n s = .next t ∧ t.h = s.h ∧ t.mh = s.mh ∧ t.hh = s.hh ∧ t.seq n = q :=
  ⟨s.setSeq n q, seqStep_of_shape h, rfl, rfl, rfl, by simp⟩

/-- The end of a request: the host sees its one `Done`. -/
theorem seqStep_finish {b : Bool} (h : (s.seq n).shape s.cfg = .finish b q) :
    ∃ t, seqStep n s = .next t ∧ t.h = s.h ∧ t.mh = s.mh ∧ t.hh = s.hh ++ [.done n b] ∧ t.seq n = q :=
  ⟨(s.setSeq n q).logDone n b, seqStep_of_shape h, rfl, rfl, rfl, by simp⟩

end

/-! ### How a transfer inside a `READ_IDENTITY` goes on (rule R195) -/

section
variable {p : Params} {q : Sequencer}

/-- Inside a `READ_IDENTITY` no end of a transfer completes a request. -/
theorem Sequencer.endShape_of_ident (h : q.mode = .ident) : q.endShape p = .move (identityContinue p q) := by
  simp [endShape, h]

theorem Sequencer.shape_doneOk_of_ident (h : q.mode = .ident) (hst : q.st = .doneOk) :
    q.shape p = .move (identityContinue p q.succeeded) := by
  rw [shape, hst, ← endShape_of_ident (q := q.succeeded) h]

theorem Sequencer.shape_doneFail_of_ident (h : q.mode = .ident) (hst : q.st = .doneFail) :
    q.shape p = .move (identityContinue p q.failed) := by
  rw [shape, hst, ← endShape_of_ident (q := q.failed) h]

/-- After a success, and after a failure with the refill off, the reader takes up its next stage. -/
theorem identityContinue_of_no_refill (h : ¬(q.xok = false ∧ p.refillOnFailure = true)) :
    identityContinue p q = { q with st := if q.idstg = .sn then .idMac else .idEnd } := by
  cases hstage : q.idstg <;> simp only [identityContinue, hstage, if_neg h] <;> rfl

/-- After a failure with the refill on, the stage's output is filled again from its first byte. -/
theorem identityContinue_of_refill (h : q.xok = false ∧ p.refillOnFailure = true) :
    identityContinue p q = { q with j := 0, st := if q.idstg = .sn then .idRefillSn else .idRefillMac } := by
  cases hstage : q.idstg <;> simp only [identityContinue, hstage, if_pos h] <;> rfl

end

/-! ### The statements -/

/-- Settles O48: the transfer's end moves to `identityContinue`, of which the success and the two settings of the refill take
one branch each. -/
theorem identityContinues : Obligations.IdentityContinues := by
  intro n s hmode
  constructor
  · intro hst
    obtain ⟨t, hstep, hh, hmh, hhh, hseq⟩ := seqStep_move (Sequencer.shape_doneOk_of_ident hmode hst)
    exact ⟨t, hstep, hh, hmh, hhh, hseq.trans (identityContinue_of_no_refill (by simp [Sequencer.succeeded]))⟩
  · intro hst
    obtain ⟨t, hstep, hh, hmh, hhh, hseq⟩ := seqStep_move (Sequencer.shape_doneFail_of_ident hmode hst)
    refine ⟨t, hstep, hh, hmh, hhh, fun hrefill => ?_, fun hrefill => ?_⟩
    · exact hseq.trans (identityContinue_of_refill ⟨rfl, hrefill⟩)
    · exact hseq.trans (identityContinue_of_no_refill (by simp [hrefill]))

/-- Settles O50: the two set-up states move to the registers of their transaction, and `ID_END` finishes with `S.XOK`. -/
theorem identityTransactions : Obligations.IdentityTransactions := by
  intro n s
  refine ⟨fun hst => ?_, fun hst => ?_, fun hst => ?_⟩
  · refine (seqStep_move ?_).imp fun t ⟨hstep, hh, hmh, _, hseq⟩ => ⟨hstep, hh, hmh, hseq⟩
    simp only [Sequencer.shape, hst]
  · refine (seqStep_move ?_).imp fun t ⟨hstep, hh, hmh, _, hseq⟩ => ⟨hstep, hh, hmh, hseq⟩
    simp only [Sequencer.shape, hst]
  · refine seqStep_finish ?_
    simp only [Sequencer.shape, hst]

end Sys2Proof.Machine

/-! ## A busy-wait on a controller that does not complete (rule R226) -/

namespace Sys2Proof.Machine

/-! ### What keeps a busy controller: every port operation (rule R128) and every sequencer step -/

/-- The parameters are as they were, and so is every controller that was busy in `s`. -/
structure State.KeepsBusy (s t : State) : Prop where
  cfg : t.cfg = s.cfg
  ctl : ∀ g, (s.ctl g).busy = true → t.ctl g = s.ctl g

section
variable {s t : State} {w : Who}

theorem State.KeepsBusy.of_ctls (hcfg : t.cfg = s.cfg) (hctls : t.ctls = s.ctls) : s.KeepsBusy t :=
  ⟨hcfg, fun g _ => by rw [State.ctl, hctls]; rfl⟩

/-- Writing an idle controller writes no busy one. -/
theorem State.KeepsBusy.setCtl_logPort {g : Handle} (hidle : (s.ctl g).busy = false) (k : Controller) (op : PortOp) :
    s.KeepsBusy ((s.setCtl g k).logPort w op) := by
  refine ⟨rfl, fun g' hbusy => ?_⟩
  have hne : g' ≠ g := by
    rintro rfl
    simp [hidle] at hbusy
  simp [hne]

theorem portSetSlaveAddress_keepsBusy {a : SlaveAddr} {r : Dir} (h : portSetSlaveAddress w a r s = .next t) :
    s.KeepsBusy t := by
  rcases portSetSlaveAddress_cases w a r s with ⟨_, e⟩ | ⟨hidle, e⟩ <;> rw [e] at h <;> cases h
  exact .setCtl_logPort hidle _ _

theorem portPutData_keepsBusy {b : Byte} (h : portPutData w b s = .next t) : s.KeepsBusy t := by
  rcases portPutData_cases w b s with ⟨_, e⟩ | ⟨hidle, e⟩ <;> rw [e] at h <;> cases h
  exact .setCtl_logPort hidle _ _

theorem portIssueCommand_keepsBusy {c : Cmd} (h : portIssueCommand w c s = .next t) : s.KeepsBusy t := by
  rcases portIssueCommand_cases w c s with ⟨_, e⟩ | ⟨_, _, e⟩ | ⟨hidle, _, e⟩ <;> rw [e] at h <;> cases h
  exact .setCtl_logPort hidle _ _

theorem accept_keepsBusy {n : Nat} {latch : Sequencer → Sequencer} (h : accept n latch s = .next t) :
    s.KeepsBusy t := by
  rcases accept_cases n latch s with ⟨_, e⟩ | ⟨_, _, e⟩ | ⟨_, _, _, e⟩ | ⟨_, _, _, e⟩ <;> rw [e] at h <;> cases h
  exact .of_ctls rfl rfl

theorem exec_keepsBusy {i : Instr} (h : exec i s = .next t) : s.KeepsBusy t := by
  cases i with
  | init cid =>
    change execInit cid s = .next t at h
    unfold execInit at h
    split_ifs at h
    cases h
    exact .of_ctls rfl rfl
  | xfer sa wp wn rp rn => exact accept_keepsBusy h
  | rdid snp macp => exact accept_keepsBusy h
  | ssa a r => exact portSetSlaveAddress_keepsBusy h
  | put b => exact portPutData_keepsBusy h
  | get =>
    cases h
    obtain ⟨_, hctls, _, hcfg, -⟩ := portGetData_same s.portBy s
    exact .of_ctls hcfg hctls
  | isBusy => cases h; exact .of_ctls rfl rfl
  | getError =>
    cases h
    obtain ⟨_, hctls, _, hcfg, -⟩ := portGetError_same s.portBy s
    exact .of_ctls hcfg hctls
  | cmdSingleSend | cmdBurstSendStart | cmdBurstSendContinue | cmdBurstSendFinish | cmdBurstReceiveStart
  | cmdBurstReceiveContinue | cmdBurstReceiveFinish | cmdBurstReceiveStop | cmdSingleReceiveNack =>
    exact portIssueCommand_keepsBusy h

/-- A sequencer's move leaves the controller it drives as it was where that is busy. -/
theorem Shape.Moves.keeps_busy {sh : Shape} {p : Params} {q q' : Sequencer} {k k' : Controller}
    (h : sh.Moves p q k q' k') (hbusy : k.busy = true) : k' = k := by
  cases sh with
  | still => exact h.elim
  | address | load | command => exact absurd (hbusy.symm.trans h.1) nofun
  | poll | check | pull | fill | move | finish => exact h.1

theorem seqStep_keepsBusy {n : Nat} (h : seqStep n s = .next t) : s.KeepsBusy t := by
  rcases seqStep_effect h with ⟨rfl, -⟩ | ⟨q', k', eff⟩
  · exact .of_ctls rfl rfl
  · refine ⟨eff.around.1, fun g hbusy => ?_⟩
    rw [eff.ctl g]
    split_ifs with hg
    · subst hg
      exact eff.moves.keeps_busy hbusy
    · rfl

theorem submitRequest_keepsBusy {n : Nat} {ws : List Word} (h : submitRequest n ws s = .next t) : s.KeepsBusy t := by
  unfold submitRequest at h
  split at h
  · split_ifs at h
    · obtain ⟨hcfg, hctl⟩ := exec_keepsBusy h
      exact ⟨hcfg, hctl⟩
    · cases h
      exact .of_ctls rfl rfl
  all_goals cases h

theorem drivePort_keepsBusy {g : Handle} {pw : PortWord} (h : drivePort g pw s = .next t) : s.KeepsBusy t := by
  unfold drivePort at h
  split at h
  · obtain ⟨hcfg, hctl⟩ := exec_keepsBusy h
    exact ⟨hcfg, hctl⟩
  · cases h

theorem hostRead_keepsBusy {n : Nat} (h : hostRead n s = .next t) : s.KeepsBusy t := by
  unfold hostRead readResult at h
  split at h
  · split at h <;> cases h
    exact .of_ctls rfl rfl
  · cases h
    exact .of_ctls rfl rfl

theorem agentRead_keepsBusy (a : Word) (s : State) : s.KeepsBusy (agentRead a s) := by
  unfold agentRead
  rcases s.load_cases none a.toNat with ⟨_, e⟩ | ⟨_, e⟩ <;> rw [e] <;> exact .of_ctls rfl rfl

/-- A completion writes no controller but its own. -/
theorem completeCommand_keeps_ctl {g g' : Handle} (hne : g' ≠ g) (e : BusErr) (d : Byte) (s : State) :
    (completeCommand g' e d s).cfg = s.cfg ∧ (completeCommand g' e d s).ctl g = s.ctl g := by
  rcases completeCommand_cases g' e d s with ⟨_, h⟩ | ⟨c, _, h⟩ <;> rw [h]
  · exact ⟨rfl, rfl⟩
  · exact ⟨rfl, (s.ctl_setCtl g' g _).trans (if_neg hne.symm)⟩

/-- THE END OF `CTL.BUSY`: only its completion or a reset writes a busy controller. -/
theorem runTurn_keeps_busy {τ : Turn} {g : Handle} (h : runTurn τ s = .next t) (hbusy : (s.ctl g).busy = true)
    (hcomplete : ∀ e d, τ ≠ .complete g e d) (hreset : ∀ ds, τ ≠ .reset ds) :
    t.cfg = s.cfg ∧ t.ctl g = s.ctl g := by
  have keeps (hk : s.KeepsBusy t) : t.cfg = s.cfg ∧ t.ctl g = s.ctl g := ⟨hk.cfg, hk.ctl g hbusy⟩
  cases τ with
  | submit n ws => exact keeps (submitRequest_keepsBusy h)
  | readResult n => exact keeps (hostRead_keepsBusy h)
  | seq n => exact keeps (seqStep_keepsBusy h)
  | complete g' e d =>
    cases h
    have hne : g' ≠ g := by
      rintro rfl
      exact hcomplete e d rfl
    exact completeCommand_keeps_ctl hne e d s
  | drive g' pw => exact keeps (drivePort_keepsBusy h)
  | agentWrite a b =>
    cases h
    exact keeps (.of_ctls (s.cfg_store none a.toNat b) (s.ctls_store none a.toNat b))
  | agentRead a =>
    cases h
    exact keeps (agentRead_keepsBusy a s)
  | reset ds => exact absurd rfl (hreset ds)

/-! ### What keeps a sequencer that is not `IDLE`: every instruction (rules R37, R216) -/

/-- No instruction writes a selected sequencer that is not `IDLE`: a request to it faults with `Overlap`. -/
theorem exec_keeps_active {i : Instr} (h : exec i s = .next t) (hactive : (s.seq s.selInst).st ≠ .idle) (m : Nat) :
    t.seq m = s.seq m := by
  have overlap {latch : Sequencer → Sequencer} (ha : accept s.selInst latch s = .next t) : False := by
    simp [accept, hactive] at ha
  cases i with
  | init cid => exact absurd h (by simp [exec, execInit, hactive])
  | xfer sa wp wn rp rn => exact (overlap h).elim
  | rdid snp macp => exact (overlap h).elim
  | _ => exact (exec_seq h m).trans (ite_self _)

theorem submitRequest_keeps_active {n : Nat} {ws : List Word} (h : submitRequest n ws s = .next t)
    (hactive : (s.seq n).st ≠ .idle) : t.seq n = s.seq n := by
  unfold submitRequest at h
  split at h
  · split_ifs at h
    · exact exec_keeps_active h hactive n
    · cases h
      rfl
  all_goals cases h

end

/-! ### The busy-wait -/

theorem St.ne_idle_of_isPoll {st : St} (h : st.isPoll = true) : st ≠ .idle := by
  rintro rfl
  nomatch h

/-- A busy-wait state has the shape of a poll. -/
theorem Sequencer.exists_shape_eq_poll {q : Sequencer} (h : q.st.isPoll = true) (p : Params) :
    ∃ r, q.shape p = .poll r := by
  unfold Sequencer.shape
  cases hst : q.st <;> rw [hst] at h
  case w1Poll | wsPoll | wmPoll | wfPoll | r1Poll | rsPoll | rmPoll | rfPoll | rpPoll => exact ⟨_, rfl⟩
  all_goals nomatch h

theorem seqStep_keeps_around {n : Nat} {s t : State} (h : seqStep n s = .next t) : s.SameAround t := by
  rcases seqStep_effect h with ⟨rfl, -⟩ | ⟨_, _, eff⟩
  · exact ⟨rfl, rfl, rfl, rfl, rfl, rfl⟩
  · exact eff.around

/-- Sequencer `n` is in a busy-wait on a busy controller, with no timeout. -/
structure State.BusyWait (s : State) (n : Nat) : Prop where
  isPoll : (s.seq n).st.isPoll = true
  busy : (s.ctl (s.seq n).ctlid).busy = true
  noTimeout : s.cfg.busyTimeout = none

section
variable {s t : State} {n : Nat}

/-- The busy-wait goes on where its registers but `S.TC`, its controller and the parameters are as they were. -/
theorem State.BusyWait.of_same (hw : s.BusyWait n) {tc : Word} (hseq : t.seq n = { s.seq n with tc := tc })
    (hctl : t.ctl (s.seq n).ctlid = s.ctl (s.seq n).ctlid) (hcfg : t.cfg = s.cfg) : t.BusyWait n := by
  obtain ⟨hpoll, hbusy, htimeout⟩ := hw
  refine ⟨?_, ?_, hcfg ▸ htimeout⟩
  · rw [hseq]
    exact hpoll
  · rw [hseq]
    exact hctl ▸ hbusy

/-- The waiting sequencer's own step: one busy poll, counted. -/
theorem State.BusyWait.poll (hw : s.BusyWait n) :
    ∃ t tc, seqStep n s = .next t ∧ t.BusyWait n ∧ t.seq n = { s.seq n with tc := tc } ∧
      t.h = s.h ++ [.port (.inst n) (.isBusy true)] ∧ t.hh = s.hh ∧ t.mh = s.mh ∧ t.env = s.env := by
  obtain ⟨q, hshape⟩ := Sequencer.exists_shape_eq_poll hw.isPoll s.cfg
  obtain ⟨t, hstep, hh, hctl, -, hmh, hhh, -, hstay⟩ := seqStep_poll hshape
  obtain ⟨-, hcount⟩ := hstay hw.busy
  obtain ⟨tc, hseq, -⟩ := hcount (by simp [hw.noTimeout])
  obtain ⟨hcfg, -, henv, -⟩ := seqStep_keeps_around hstep
  rw [hw.busy] at hh
  exact ⟨t, tc, hstep, hw.of_same hseq (hctl _) hcfg, hseq, hh, hhh, hmh, henv⟩

/-- No turn but a reset writes more of the waiting sequencer than `S.TC`. -/
theorem State.BusyWait.runTurn_registers (hw : s.BusyWait n) {τ : Turn} (h : runTurn τ s = .next t)
    (hreset : ∀ ds, τ ≠ .reset ds) : ∃ tc, t.seq n = { s.seq n with tc := tc } := by
  rcases runTurn_seq h n with hseq | ⟨ws, i, rfl, -⟩ | ⟨rfl, -⟩ | ⟨ds, rfl⟩
  · exact ⟨(s.seq n).tc, hseq⟩
  · exact ⟨(s.seq n).tc, submitRequest_keeps_active h (St.ne_idle_of_isPoll hw.isPoll)⟩
  · obtain ⟨u, tc, hstep, -, hseq, -⟩ := hw.poll
    cases hstep.symm.trans h
    exact ⟨tc, hseq⟩
  · exact absurd rfl (hreset ds)

theorem State.BusyWait.tookTurn (hw : s.BusyWait n) : s.tookTurn.BusyWait n :=
  hw.of_same (tc := (s.seq n).tc) (by simp) (by simp) (by simp)

/-- A run goes on from what its first step leaves. -/
theorem run_succ_of_step {u : State} (h : step s = .next u) (k : Nat) :
    Host.Core.run Sys2Proof.core (k + 1) s = Host.Core.run Sys2Proof.core k u := by
  have hcore : Sys2Proof.core.step s = .next u := h
  simp only [Host.Core.run, hcore]

/-- `k` steps of the waiting sequencer alone: `k` busy polls, and it waits still. -/
theorem State.BusyWait.run_polls (hw : s.BusyWait n) {k : Nat} {rest : List Turn}
    (henv : s.env = List.replicate k (.seq n) ++ rest) :
    ∃ t, Host.Core.run Sys2Proof.core k s = .next t ∧ (t.seq n).st = (s.seq n).st ∧
      t.h = s.h ++ List.replicate k (.port (.inst n) (.isBusy true)) ∧ t.hh = s.hh ∧ t.mh = s.mh ∧ t.env = rest := by
  induction k generalizing s with
  | zero => exact ⟨s, rfl, rfl, by simp, rfl, rfl, henv⟩
  | succ k ih =>
    have hw' : State.BusyWait { s with env := List.replicate k (.seq n) ++ rest } n := ⟨hw.isPoll, hw.busy, hw.noTimeout⟩
    obtain ⟨u, tc, hturn, hwait, hseq, hh, hhh, hmh, hrest⟩ := hw'.poll
    have hstep : step s = .next u := (step_of_env henv).trans hturn
    obtain ⟨t, hrun, hst, hh', hhh', hmh', henv'⟩ := ih hwait hrest
    refine ⟨t, (run_succ_of_step hstep k).trans hrun, ?_, ?_, hhh'.trans hhh, hmh'.trans hmh, henv'⟩
    · rw [hst, hseq]
      rfl
    · rw [hh', hh, List.append_assoc, List.replicate_succ]
      rfl

end

/-- Settles O52: a turn that is neither the completion nor a reset keeps the busy-wait, and its own steps are `k` busy polls,
by induction on `k`. -/
theorem busyWaitHangs : Obligations.BusyWaitHangs := by
  constructor
  · intro n s t hpoll hbusy htimeout hcomplete hreset hstep
    have hw : s.tookTurn.BusyWait n := State.BusyWait.tookTurn ⟨hpoll, hbusy, htimeout⟩
    obtain ⟨hcfg, hctl⟩ := runTurn_keeps_busy hstep (by simpa using hbusy) hcomplete hreset
    obtain ⟨tc, hseq⟩ := hw.runTurn_registers hstep hreset
    simp only [State.seq_tookTurn, State.ctl_tookTurn, State.cfg_tookTurn] at hcfg hctl hseq
    rw [hseq, hctl]
    exact ⟨rfl, rfl, rfl, hbusy, hcfg⟩
  · intro k n s hpoll hbusy htimeout
    exact State.BusyWait.run_polls (s := { s with env := List.replicate k (.seq n) ++ s.env }) ⟨hpoll, hbusy, htimeout⟩ rfl

end Sys2Proof.Machine

/-! ## The state after reset (rules R240, R242) -/

namespace Sys2Proof.Machine

/-- Rule R216: while the result of an instance that exists is ⊥, the host's read of it is the fault `ReadUnset`. -/
theorem runTurn_readResult_of_unset {s : State} {n : Nat} (hn : n < s.cfg.ninst) (hunset : (s.seq n).result = none) :
    runTurn (.readResult n) s = .fault .readUnset := by
  have hexists : s.hasInstance n = true := by simpa [State.hasInstance] using hn
  simp only [runTurn, hostRead, hexists, if_true, readResult, hunset]

/-- Settles O26: after reset no instance is listed, so each holds the registers of `Sequencer.reset`, whose result is ⊥. -/
theorem resetLeavesIdle : Obligations.ResetLeavesIdle := by
  refine ⟨fun n => ?_, rfl, rfl, rfl⟩
  have hseq : State.reset.seq n = Sequencer.reset :=
    State.reset.seq_eq_reset_of_not_listed n (List.forall_mem_nil _)
  have hunset : (State.reset.seq n).result = none := by rw [hseq]; rfl
  refine ⟨?_, ?_, ?_, hunset, fun hn => runTurn_readResult_of_unset hn hunset⟩ <;> rw [hseq] <;> rfl

end Sys2Proof.Machine

/-! ## Decoding and encoding are inverse, and the assembler's descriptors -/

namespace Sys2Proof

/-! ### Descriptors -/

/-- A request's descriptor decodes to it (rules R82 to R84). -/
theorem decodeRequest_of_encode {ws : List Word} {i : Instr} (h : encode i = .request ws) : decodeRequest ws = .ok i := by
  cases i with
  | init cid =>
    cases h
    simp only [decodeRequest, decodeHeader_eq_ok_iff.2 (show headerWord 0x1 0 = Header.init.word from rfl)]
  | xfer sa wp wn rp rn =>
    cases h
    simp only [decodeRequest, decodeHeader_eq_ok_iff.2 (show headerWord 0x2 sa = (Header.transfer sa).word from rfl)]
  | rdid snp macp =>
    cases h
    simp only [decodeRequest, decodeHeader_eq_ok_iff.2 (show headerWord 0x3 0 = Header.readIdentity.word from rfl)]
  | _ => nomatch h

/-- What a descriptor decodes to is encoded as that descriptor: the words beyond its header are the operands, no more and no
fewer (rule R85). -/
theorem encode_of_decodeRequest {ws : List Word} {i : Instr} (h : decodeRequest ws = .ok i) : encode i = .request ws := by
  cases ws with
  | nil => nomatch h
  | cons hdr ops =>
    cases hd : decodeHeader hdr with
    | error e => simp [decodeRequest, hd] at h
    | ok r =>
      rw [decodeHeader_eq_ok_iff.1 hd]
      cases r <;> simp only [decodeRequest, hd] at h <;> split at h <;> cases h <;> rfl

/-- A code decodes to an instruction exactly where it is that instruction's code. -/
theorem decode_eq_ok_iff {c : Code} {i : Instr} : decode c = .ok i ↔ encode i = c := by
  cases c with
  | request ws => exact ⟨encode_of_decodeRequest, decodeRequest_of_encode⟩
  | port w => exact decodePort_eq_ok_iff

/-- Settles O1: each decoder reads back the codes of its own instructions. -/
theorem decodeEncodeRoundTrip : Obligations.DecodeEncodeRoundTrip :=
  fun _ _ => decode_eq_ok_iff.2 rfl

/-- Settles O2: a code decodes to an instruction only where it is the code of that instruction. -/
theorem encodeDecodeRoundTrip : Obligations.EncodeDecodeRoundTrip :=
  fun _ _ => decode_eq_ok_iff.1

/-- Settles O6: each of the eleven words is the code of the instruction that stands there. -/
theorem workedWordsDecode : Obligations.WorkedWordsDecode := by
  unfold Obligations.WorkedWordsDecode
  simp only [decode_eq_ok_iff]
  decide

end Sys2Proof

namespace Sys2Proof.Machine

/-! ### Assembly lines (rules R97, R98) -/

theorem AsmReq.expand_instr (a : AsmReq) : a.expand.instr = a.instr := by
  cases a <;> rfl

/-- Settles O7: a line in range is the code of its instruction, which decodes to it, and a number in range fits its field. -/
theorem assemblerEmitsDescriptors : Obligations.AssemblerEmitsDescriptors := by
  have fits {w v : Nat} (h : v < 2 ^ w) : (BitVec.ofNat w v).toNat = v := by simp [Nat.mod_eq_of_lt h]
  refine ⟨fun a => ⟨fun hw => ?_, fun hw => ?_, a.expand_instr⟩, fun sa wp wn rp rn hw => ?_, fun cid hw => ?_,
    fun snp macp hw => ?_⟩
  · exact ⟨encode a.instr, if_pos hw, decode_eq_ok_iff.2 rfl⟩
  · simp [AsmReq.assemble, hw]
  · simp only [AsmReq.wellFormed, AsmReq.saOk, AsmReq.wordOk, Bool.and_eq_true, decide_eq_true_eq] at hw
    obtain ⟨⟨⟨⟨hsa, hwp⟩, hwn⟩, hrp⟩, hrn⟩ := hw
    exact ⟨_, _, _, _, _, rfl, fits hsa, fits hwp, fits hwn, fits hrp, fits hrn⟩
  · exact ⟨_, rfl, fits (of_decide_eq_true hw)⟩
  · simp only [AsmReq.wellFormed, AsmReq.wordOk, Bool.and_eq_true, decide_eq_true_eq] at hw
    obtain ⟨hsnp, hmacp⟩ := hw
    exact ⟨_, _, rfl, fits hsnp, fits hmacp⟩

end Sys2Proof.Machine

/-! ## What every step of the machine keeps (rules R34, R44, R225) -/

namespace Sys2Proof.Machine

/-! ### Where a sequencer's move goes -/

/-- The registers a shape leaves where its step goes on, neither aborted nor kept waiting. -/
def Shape.target (q : Sequencer) : Shape → Option Sequencer
  | .still => none
  | .address _ next | .load _ next => some { q with st := next }
  | .command _ next => some { q with tc := 0, st := next }
  | .poll r | .check r | .pull _ r | .fill _ r | .move r | .finish _ r => some r

/-- A move goes on to its shape's target, or aborts, or counts a busy poll. -/
theorem Shape.Moves.target_cases {sh : Shape} {p : Params} {q q' : Sequencer} {k k' : Controller}
    (h : sh.Moves p q k q' k') :
    sh.target q = some q' ∨ ((∃ r, sh = .poll r ∨ sh = .check r) ∧ ∃ c, q' = { q with cause := c, st := .doneFail }) ∨
      ((∃ r, sh = .poll r) ∧ k.busy = true ∧ ∃ v, q' = { q with tc := v }) := by
  cases sh with
  | still => exact h.elim
  | address | load => obtain ⟨-, rfl, -⟩ := h; exact .inl rfl
  | command => obtain ⟨-, -, rfl, -⟩ := h; exact .inl rfl
  | poll r =>
    obtain ⟨-, ⟨-, rfl⟩ | ⟨-, -, rfl⟩ | ⟨hbusy, -, v, rfl⟩⟩ := h
    · exact .inl rfl
    · exact .inr (.inl ⟨⟨r, .inl rfl⟩, _, rfl⟩)
    · exact .inr (.inr ⟨⟨r, rfl⟩, hbusy, v, rfl⟩)
  | check r =>
    obtain ⟨-, rfl | rfl⟩ := h
    · exact .inl rfl
    · exact .inr (.inl ⟨⟨r, .inr rfl⟩, _, rfl⟩)
  | pull | fill | move | finish => obtain ⟨-, rfl⟩ := h; exact .inl rfl

/-! ### A sequencer's move keeps its registers consistent -/

/-- A move inside a transfer: `q'` works on the same request with the same write bytes, and its counts and index fit its state. -/
structure Sequencer.Continues (q q' : Sequencer) : Prop where
  mode : q'.mode = q.mode
  bound : q'.bound = q.bound
  wsrc : q'.wsrc = q.wsrc
  wn : q'.wn = q.wn
  active : q'.st ≠ .idle
  transfer : q'.st.isIdentity = false
  phase : q'.phaseOk

/-- The states of a transfer before its end. -/
def St.inTransfer : St → Bool
  | .idle | .doneOk | .doneFail | .idFill | .idSn | .idRefillSn | .idMac | .idRefillMac | .idEnd => false
  | _ => true

theorem St.active_of_inTransfer {st : St} : st.inTransfer = true → st ≠ .idle ∧ st.isIdentity = false := by
  cases st <;> decide

/-- An index below a count counts on. -/
theorem toNat_ofNat_succ_of_lt {w v : Word} (h : w.toNat < v.toNat) : (BitVec.ofNat 32 (w.toNat + 1)).toNat = w.toNat + 1 := by
  have hv := v.isLt
  simp only [BitVec.toNat_ofNat]
  exact Nat.mod_eq_of_lt (by omega)

/-- The target of a state inside a transfer fits its counts and index (rule R44 item 4). -/
theorem Sequencer.target_continues {p : Params} {q q' : Sequencer} (hin : q.st.inTransfer = true)
    (hphase : q.phaseOk) (h : (q.shape p).target q = some q') : q.Continues q' := by
  unfold Sequencer.shape at h
  unfold Sequencer.phaseOk at hphase
  cases hst : q.st <;> rw [hst] at hin <;> simp only [hst] at h hphase
  case idle | doneOk | doneFail | idFill | idSn | idRefillSn | idMac | idRefillMac | idEnd => nomatch hin
  all_goals cases h
  case check =>
    split_ifs with h0 h1 h2
    · exact ⟨rfl, rfl, rfl, rfl, nofun, rfl, trivial⟩
    · exact ⟨rfl, rfl, rfl, rfl, nofun, rfl, h1⟩
    · exact ⟨rfl, rfl, rfl, rfl, nofun, rfl, h2⟩
    · exact ⟨rfl, rfl, rfl, rfl, nofun, rfl, show 1 ≤ q.rn.toNat by omega⟩
  case rphase =>
    split_ifs with h1 h2
    · exact ⟨rfl, rfl, rfl, rfl, nofun, rfl, h1⟩
    · exact ⟨rfl, rfl, rfl, rfl, nofun, rfl, h2⟩
    · exact ⟨rfl, rfl, rfl, rfl, nofun, rfl, trivial⟩
  case wsPoll | rsGet =>
    unfold afterFirst
    split_ifs with h3
    · exact ⟨rfl, rfl, rfl, rfl, nofun, rfl, Nat.le_refl 1, h3⟩
    · exact ⟨rfl, rfl, rfl, rfl, nofun, rfl, hphase⟩
  case wmErr | rmGet =>
    obtain ⟨hi, hlast⟩ := hphase
    unfold afterMiddle
    split_ifs with hmore
    · refine ⟨rfl, rfl, rfl, rfl, nofun, rfl, ?_⟩
      simp only [Sequencer.phaseOk, toNat_ofNat_succ_of_lt (Nat.lt_of_lt_of_le (Nat.lt_add_of_pos_right Nat.two_pos) hlast)]
      exact ⟨Nat.le_add_left 1 _, hmore⟩
    · exact ⟨rfl, rfl, rfl, rfl, nofun, rfl, Nat.le_of_add_left_le hlast⟩
  case w1Err | wfErr =>
    unfold afterWrite
    split_ifs with hrn
    · exact ⟨rfl, rfl, rfl, rfl, nofun, rfl, trivial⟩
    · exact ⟨rfl, rfl, rfl, rfl, nofun, rfl, Nat.pos_of_ne_zero fun h0 => hrn (BitVec.eq_of_toNat_eq h0)⟩
  case r1Get | rpErr => exact ⟨rfl, rfl, rfl, rfl, nofun, rfl, trivial⟩
  all_goals exact ⟨rfl, rfl, rfl, rfl, nofun, rfl, hphase⟩

/-- Every move inside a transfer goes on with it. -/
theorem Shape.Moves.continues {p : Params} {q q' : Sequencer} {k k' : Controller} (hin : q.st.inTransfer = true)
    (hphase : q.phaseOk) (h : (q.shape p).Moves p q k q' k') : q.Continues q' := by
  obtain ⟨hactive, htransfer⟩ := St.active_of_inTransfer hin
  rcases h.target_cases with htarget | ⟨-, c, rfl⟩ | ⟨-, -, v, rfl⟩
  · exact Sequencer.target_continues hin hphase htarget
  · exact ⟨rfl, rfl, rfl, rfl, nofun, rfl, trivial⟩
  · exact ⟨rfl, rfl, rfl, rfl, hactive, htransfer, hphase⟩

theorem Sequencer.Consistent.of_continues {q q' : Sequencer} (hq : q.Consistent) (hin : q.st.inTransfer = true)
    (h : q.Continues q') : q'.Consistent := by
  obtain ⟨hactive, htransfer⟩ := St.active_of_inTransfer hin
  refine ⟨?_, fun _ => ?_, fun hid => ?_, fun hm => ?_, fun hm _ => ?_, h.phase⟩
  · rw [h.mode, hq.mode_idle]
    exact iff_of_false hactive h.active
  · exact h.bound.trans (hq.active_bound hactive)
  · exact absurd (hid.symm.trans h.transfer) nofun
  · exact h.wsrc.trans (hq.xfer_mem (h.mode.symm.trans hm))
  · rw [h.wsrc, h.wn]
    exact hq.ident_const (h.mode.symm.trans hm) htransfer

end Sys2Proof.Machine

namespace Sys2Proof.Machine

/-! #### The ends of a transfer, and the Identity Reader -/

section
variable {p : Params} {q q' : Sequencer} {k k' : Controller}

theorem Sequencer.Consistent.of_idle (hst : q.st = .idle) (hmode : q.mode = .none) : q.Consistent := by
  refine ⟨iff_of_true hmode hst, fun h => absurd hst h, fun h => ?_, fun h => ?_, fun h => ?_, ?_⟩
  · rw [hst] at h; nomatch h
  · rw [hmode] at h; nomatch h
  · rw [hmode] at h; nomatch h
  · rw [Sequencer.phaseOk, hst]; trivial

theorem Sequencer.Consistent.of_identity (hmode : q.mode = .ident) (hbound : q.bound = true)
    (hst : q.st.isIdentity = true) (hphase : q.phaseOk) : q.Consistent := by
  refine ⟨iff_of_false (by simp [hmode]) ?_, fun _ => hbound, fun _ => hmode, fun h => ?_, fun _ h => ?_, hphase⟩
  · intro h; rw [h] at hst; nomatch hst
  · rw [hmode] at h; nomatch h
  · rw [hst] at h; nomatch h

/-- Rule R195: the Identity Reader goes on in a state of its own. -/
theorem identityContinue_consistent (hmode : q.mode = .ident) (hbound : q.bound = true) :
    (identityContinue p q).Consistent := by
  unfold identityContinue
  split <;> split_ifs
  · exact .of_identity hmode hbound rfl (Nat.zero_le 15)
  · exact .of_identity hmode hbound rfl trivial
  · exact .of_identity hmode hbound rfl (Nat.zero_le 5)
  · exact .of_identity hmode hbound rfl trivial

/-- The end of a transfer completes the request of a host, or hands over to the Identity Reader. -/
theorem Sequencer.endShape_consistent {r : Sequencer} (hmode : q.mode ≠ .none) (hbound : q.bound = true)
    (h : (q.endShape p).target r = some q') : q'.Consistent := by
  unfold Sequencer.endShape at h
  split_ifs at h with hxfer <;> cases h
  · exact .of_idle rfl rfl
  · refine identityContinue_consistent ?_ hbound
    cases hm : q.mode with
    | none => exact absurd hm hmode
    | xfer => exact absurd hm hxfer
    | ident => rfl

/-- A sentinel state goes on to the next after its last byte, and before it stays within its bytes. -/
theorem afterSentinel_cases {last : Nat} (next : St) (hlast : last < 31) (hj : q.j.toNat ≤ last) :
    afterSentinel last next q = { q with st := next } ∨
      ((q.j + 1).toNat ≤ last ∧ afterSentinel last next q = { q with j := q.j + 1 }) := by
  unfold afterSentinel
  split_ifs with h
  · exact .inl rfl
  · refine .inr ⟨?_, rfl⟩
    rw [BitVec.toNat_add]
    change (q.j.toNat + 1) % 32 ≤ last
    omega

/-- The targets of the states outside a transfer, and of its end. -/
theorem Sequencer.target_consistent (hin : q.st.inTransfer = false) (hq : q.Consistent)
    (h : (q.shape p).target q = some q') : q'.Consistent := by
  have hmode (hst : q.st ≠ .idle) : q.mode ≠ .none := fun hm => hst (hq.mode_idle.1 hm)
  have hid := hq.identity_mode
  have hbound := hq.active_bound
  have hphase := hq.phase
  unfold Sequencer.phaseOk at hphase
  unfold Sequencer.shape at h
  cases hst : q.st <;> rw [hst] at hin <;> simp only [hst] at h hphase hid hbound hmode
  case idle => nomatch h
  case doneOk =>
    exact Sequencer.endShape_consistent (q := q.succeeded) (hmode nofun) (hbound nofun) h
  case doneFail =>
    exact Sequencer.endShape_consistent (q := q.failed) (hmode nofun) (hbound nofun) h
  case idFill | idRefillSn | idRefillMac =>
    cases h
    rcases afterSentinel_cases _ (by decide) hphase with e | ⟨hj, e⟩ <;> rw [e]
    · exact .of_identity (hid rfl) (hbound nofun) rfl trivial
    · exact .of_identity (hid rfl) (hbound nofun) (by rw [hst]; rfl) (by rw [phaseOk, hst]; exact hj)
  case idSn | idMac =>
    cases h
    exact ⟨iff_of_false (hmode nofun) nofun, fun _ => hbound nofun, nofun,
      fun hx => absurd ((hid rfl).symm.trans hx) nofun, fun _ _ => ⟨rfl, rfl⟩, trivial⟩
  case idEnd =>
    cases h
    exact .of_idle rfl rfl
  all_goals nomatch hin

/-- Only a transfer polls and checks the port. -/
theorem Sequencer.inTransfer_of_poll_or_check {r : Sequencer} (h : q.shape p = .poll r ∨ q.shape p = .check r) :
    q.st.inTransfer = true := by
  unfold Sequencer.shape Sequencer.endShape at h
  cases hst : q.st <;> simp only [hst] at h
  case doneOk | doneFail => split_ifs at h <;> rcases h with h | h <;> nomatch h
  case idle | idFill | idSn | idRefillSn | idMac | idRefillMac | idEnd => rcases h with h | h <;> nomatch h
  all_goals rfl

/-- A sequencer's move keeps its registers consistent. -/
theorem Sequencer.Consistent.of_moves (hq : q.Consistent) (h : (q.shape p).Moves p q k q' k') : q'.Consistent := by
  cases hin : q.st.inTransfer with
  | true => exact hq.of_continues hin (h.continues hin hq.phase)
  | false =>
    rcases h.target_cases with htarget | ⟨⟨r, hr⟩, -⟩ | ⟨⟨r, hr⟩, -⟩
    · exact Sequencer.target_consistent hin hq htarget
    · exact absurd ((Sequencer.inTransfer_of_poll_or_check hr).symm.trans hin) nofun
    · exact absurd ((Sequencer.inTransfer_of_poll_or_check (.inl hr)).symm.trans hin) nofun

/-! #### What a move keeps of its request, and what ends one -/

/-- `q'` works on the request of `q`, by the same handle, and has not completed it. -/
structure Sequencer.SameRequest (q q' : Sequencer) : Prop where
  active : q'.st ≠ .idle
  mode : q'.mode = q.mode
  bound : q'.bound = q.bound
  ctlid : q'.ctlid = q.ctlid
  snp : q'.snp = q.snp
  macp : q'.macp = q.macp
  result : q'.result = q.result

theorem afterSentinel_sameRequest {last : Nat} {next : St} (hst : q.st ≠ .idle) (hnext : next ≠ .idle) :
    q.SameRequest (afterSentinel last next q) := by
  unfold afterSentinel
  split_ifs
  · exact ⟨hnext, rfl, rfl, rfl, rfl, rfl, rfl⟩
  · exact ⟨hst, rfl, rfl, rfl, rfl, rfl, rfl⟩

/-- A target is on the same request, where the shape does not finish it. -/
theorem Sequencer.target_sameRequest (h : (q.shape p).target q = some q') (hfinish : ∀ b, q.shape p ≠ .finish b q') :
    q.SameRequest q' := by
  unfold Sequencer.shape Sequencer.endShape at h hfinish
  cases hst : q.st <;> simp only [hst] at h hfinish
  case idle => nomatch h
  case doneOk | doneFail =>
    split_ifs at h hfinish <;> cases h
    · exact absurd rfl (hfinish _)
    · unfold identityContinue
      split <;> split_ifs <;> exact ⟨nofun, rfl, rfl, rfl, rfl, rfl, rfl⟩
  case idFill | idRefillSn | idRefillMac =>
    cases h
    exact afterSentinel_sameRequest (by rw [hst]; nofun) nofun
  case idEnd => cases h; exact absurd rfl (hfinish _)
  all_goals cases h
  case check | rphase => split_ifs <;> exact ⟨nofun, rfl, rfl, rfl, rfl, rfl, rfl⟩
  case wsPoll | rsGet => unfold afterFirst; split_ifs <;> exact ⟨nofun, rfl, rfl, rfl, rfl, rfl, rfl⟩
  case wmErr | rmGet => unfold afterMiddle; split_ifs <;> exact ⟨nofun, rfl, rfl, rfl, rfl, rfl, rfl⟩
  case w1Err | wfErr => unfold afterWrite; split_ifs <;> exact ⟨nofun, rfl, rfl, rfl, rfl, rfl, rfl⟩
  all_goals exact ⟨nofun, rfl, rfl, rfl, rfl, rfl, rfl⟩

/-- A finishing shape completes the request of a host's transfer, or of an identity read (rules R147, R148, R199). -/
theorem Sequencer.finish_spec {b : Bool} {r : Sequencer} (h : q.shape p = .finish b r) :
    ((q.st = .doneOk ∨ q.st = .doneFail) ∧ q.mode = .xfer ∨ q.st = .idEnd) ∧
      ∃ c, r = { q with xok := b, cause := c, result := some b, mode := .none, st := .idle } := by
  unfold Sequencer.shape Sequencer.endShape at h
  cases hst : q.st <;> simp only [hst] at h
  case doneOk =>
    split_ifs at h with hmode
    cases h
    exact ⟨.inl ⟨.inl rfl, hmode⟩, _, rfl⟩
  case doneFail =>
    split_ifs at h with hmode
    cases h
    exact ⟨.inl ⟨.inr rfl, hmode⟩, _, rfl⟩
  case idEnd =>
    cases h
    exact ⟨.inr rfl, _, rfl⟩
  all_goals nomatch h

/-- A move completes the request, or goes on with it. -/
theorem Shape.Moves.finish_or_sameRequest (h : (q.shape p).Moves p q k q' k') :
    (∃ b, q.shape p = .finish b q') ∨ q.SameRequest q' := by
  by_cases hfinish : ∃ b, q.shape p = .finish b q'
  · exact .inl hfinish
  · refine .inr ?_
    rcases h.target_cases with htarget | ⟨-, c, rfl⟩ | ⟨⟨r, hr⟩, -, v, rfl⟩
    · exact Sequencer.target_sameRequest htarget (not_exists.1 hfinish)
    · exact ⟨nofun, rfl, rfl, rfl, rfl, rfl, rfl⟩
    · exact ⟨(St.active_of_inTransfer (Sequencer.inTransfer_of_poll_or_check (.inl hr))).1, rfl, rfl, rfl, rfl, rfl, rfl⟩

theorem Shape.Moves.keeps_binding (h : (q.shape p).Moves p q k q' k') : q'.bound = q.bound ∧ q'.ctlid = q.ctlid := by
  rcases h.finish_or_sameRequest with ⟨b, hb⟩ | hsame
  · obtain ⟨-, c, rfl⟩ := Sequencer.finish_spec hb
    exact ⟨rfl, rfl⟩
  · exact ⟨hsame.bound, hsame.ctlid⟩

theorem Shape.Moves.active (h : (q.shape p).Moves p q k q' k') : q.st ≠ .idle := by
  intro hst
  rw [Sequencer.shape, hst] at h
  exact h

/-- A move keeps `BUSY` exactly with a command in flight (rule R34). -/
theorem Shape.Moves.legal {sh : Shape} (hk : k.legal) (h : sh.Moves p q k q' k') : k'.legal := by
  cases sh with
  | still => exact h.elim
  | address => obtain ⟨-, -, rfl⟩ := h; exact hk
  | load => obtain ⟨-, -, b, rfl⟩ := h; exact hk
  | command => obtain ⟨-, -, -, rfl⟩ := h; rfl
  | poll | check | pull | fill | move | finish => rw [h.1]; exact hk

end

end Sys2Proof.Machine

/-! ## What an instruction does, and what a turn does -/

namespace Sys2Proof

/-- The controller that a port operation leaves where `k` stood (rules R111, R112, R114); a request drives none. -/
def Instr.drive (k : Machine.Controller) (i : Instr) : Machine.Controller :=
  match i, Machine.commandOf i with
  | .ssa a r, _ => k.address a r
  | .put b, _ => k.load b
  | _, some c => k.issue c
  | _, none => k

end Sys2Proof

namespace Sys2Proof.Machine

/-! ### Port operations (rules R110 to R126) -/

/-- What a port operation does: the controller at `g` becomes `k`, and `H` gains one event; it may draw a value. -/
structure PortEffect (s t : State) (g : Handle) (k : Controller) : Prop where
  seqs : t.seqs = s.seqs
  ctl : ∀ g', t.ctl g' = if g' = g then k else s.ctl g'
  ctls_wf : Sparse.wf Controller.reset s.ctls = true → Sparse.wf Controller.reset t.ctls = true
  mem : t.mem = s.mem
  around : s.SameAround t
  mh : t.mh = s.mh
  hh : t.hh = s.hh
  raced : t.raced = s.raced
  h : ∃ op, t.h = s.h ++ [.port s.portBy op]

section
variable {s t : State} {w : Who} {g : Handle} {k : Controller} {op : PortOp}

theorem PortEffect.of_setCtl (hw : w = s.portBy) : PortEffect s ((s.setCtl g k).logPort w op) g k where
  seqs := rfl
  ctl g' := s.ctl_setCtl g g' k
  ctls_wf := Sparse.wf_put _ _ _ _
  mem := rfl
  around := ⟨rfl, rfl, rfl, rfl, rfl, rfl⟩
  mh := rfl
  hh := rfl
  raced := rfl
  h := ⟨op, by rw [hw]; rfl⟩

theorem PortEffect.of_log (g : Handle) (op : PortOp) : PortEffect s (s.logPort s.portBy op) g (s.ctl g) where
  seqs := rfl
  ctl g' := by split_ifs with hg <;> simp [hg]
  ctls_wf := id
  mem := rfl
  around := ⟨rfl, rfl, rfl, rfl, rfl, rfl⟩
  mh := rfl
  hh := rfl
  raced := rfl
  h := ⟨op, rfl⟩

theorem PortEffect.of_drawn (h : PortEffect s.drawn t g k) : PortEffect s t g k := ⟨h.1, h.2, h.3, h.4, h.5, h.6, h.7, h.8, h.9⟩

theorem portIssueCommand_effect {c : Cmd} (h : portIssueCommand s.portBy c s = .next t) :
    PortEffect s t (s.handleOf s.portBy) ((s.ctl (s.handleOf s.portBy)).issue c) := by
  rcases portIssueCommand_cases s.portBy c s with ⟨_, e⟩ | ⟨_, _, e⟩ | ⟨_, _, e⟩ <;> cases e.symm.trans h
  exact .of_setCtl rfl

/-- What an accepted port operation does. -/
theorem exec_port {i : Instr} (hport : isRequest i = false) (h : exec i s = .next t) :
    PortEffect s t (s.handleOf s.portBy) (i.drive (s.ctl (s.handleOf s.portBy))) := by
  cases i with
  | init | xfer | rdid => nomatch hport
  | ssa a r =>
    rcases portSetSlaveAddress_cases s.portBy a r s with ⟨_, e⟩ | ⟨_, e⟩ <;> cases e.symm.trans h
    exact .of_setCtl rfl
  | put b =>
    rcases portPutData_cases s.portBy b s with ⟨_, e⟩ | ⟨_, e⟩ <;> cases e.symm.trans h
    exact .of_setCtl rfl
  | get =>
    cases h
    rcases portGetData_cases s.portBy s with ⟨b, _, e⟩ | ⟨_, e⟩ <;> rw [e]
    · exact .of_log _ _
    · exact .of_drawn (.of_log _ _)
  | isBusy => cases h; exact .of_log _ _
  | getError =>
    cases h
    rcases portGetError_cases s.portBy s with ⟨b, _, e⟩ | ⟨_, e⟩ <;> rw [e]
    · exact .of_log _ _
    · exact .of_drawn (.of_log _ _)
  | cmdSingleSend | cmdBurstSendStart | cmdBurstSendContinue | cmdBurstSendFinish | cmdBurstReceiveStart
  | cmdBurstReceiveContinue | cmdBurstReceiveFinish | cmdBurstReceiveStop | cmdSingleReceiveNack =>
    exact portIssueCommand_effect h

/-- No port operation sets or clears `CTL.BUSY` but with a command in flight (rule R34). -/
theorem Controller.legal.drive (hk : k.legal) (i : Instr) : (i.drive k).legal := by
  cases i with
  | cmdSingleSend | cmdBurstSendStart | cmdBurstSendContinue | cmdBurstSendFinish | cmdBurstReceiveStart
  | cmdBurstReceiveContinue | cmdBurstReceiveFinish | cmdBurstReceiveStop | cmdSingleReceiveNack => rfl
  | _ => exact hk

/-! ### Requests (rules R37, R142, R192, R203) -/

/-- What an accepted request does: the selected sequencer was `IDLE` and takes the registers of the request; `INIT` also logs its
`Done`, the other two were checked and begin with no raced byte. -/
theorem exec_request {i : Instr} (hreq : isRequest i = true) (h : exec i s = .next t) :
    (s.seq s.selInst).st = .idle ∧
      ((∃ cid, i = .init cid) ∧
          t = (s.setSeq s.selInst (i.registers (s.seq s.selInst))).logDone s.selInst true ∨
        (∀ cid, i ≠ .init cid) ∧ (s.seq s.selInst).bound = true ∧ s.sharedActive s.selInst = false ∧
          t = (s.setSeq s.selInst (i.registers (s.seq s.selInst))).forgetRaced s.selInst) := by
  have accepted {latch : Sequencer → Sequencer} (ha : accept s.selInst latch s = .next t) :
      (s.seq s.selInst).st = .idle ∧ (s.seq s.selInst).bound = true ∧ s.sharedActive s.selInst = false ∧
        t = (s.setSeq s.selInst (latch (s.seq s.selInst))).forgetRaced s.selInst := by
    rcases accept_cases s.selInst latch s with ⟨_, e⟩ | ⟨_, _, e⟩ | ⟨_, _, _, e⟩ | ⟨hst, hb, hs, e⟩ <;>
      cases e.symm.trans ha
    exact ⟨hst, hb, hs, rfl⟩
  cases i with
  | init cid =>
    change execInit cid s = .next t at h
    unfold execInit at h
    split_ifs at h with hst
    cases h
    exact ⟨not_not.1 hst, .inl ⟨⟨cid, rfl⟩, rfl⟩⟩
  | xfer sa wp wn rp rn =>
    obtain ⟨hst, hacc⟩ := accepted h
    exact ⟨hst, .inr ⟨nofun, hacc⟩⟩
  | rdid snp macp =>
    obtain ⟨hst, hacc⟩ := accepted h
    exact ⟨hst, .inr ⟨nofun, hacc⟩⟩
  | _ => nomatch hreq

end

/-! ### Turns: which instruction a turn runs -/

section
variable {s t : State}

theorem isRequest_of_encode {ws : List Word} {i : Instr} (h : encode i = .request ws) : isRequest i = true := by
  rw [isRequest, h]; rfl

theorem not_isRequest_of_encode {w : PortWord} {i : Instr} (h : encode i = .port w) : isRequest i = false := by
  rw [isRequest, h]; rfl

/-- A submission that is not refused runs its request, or finds no such sequencer and changes nothing (log entry 2). -/
theorem submitRequest_cases {n : Nat} {ws : List Word} (h : submitRequest n ws s = .next t) :
    t = s ∨ n < s.cfg.ninst ∧
      ∃ i, decode (.request ws) = .ok i ∧ isRequest i = true ∧ exec i { s with selInst := n } = .next t := by
  unfold submitRequest at h
  split at h
  next i hd =>
    split_ifs at h with hn
    · exact .inr ⟨of_decide_eq_true hn, i, hd, isRequest_of_encode (decode_eq_ok_iff.1 hd), h⟩
    · cases h; exact .inl rfl
  all_goals nomatch h

/-- A driven port word that is not refused runs its port operation, performed by the driver. -/
theorem drivePort_cases {g : Handle} {w : PortWord} (h : drivePort g w s = .next t) :
    ∃ i, isRequest i = false ∧ exec i { s with portBy := .driver g } = .next t := by
  unfold drivePort at h
  split at h
  next i hd => exact ⟨i, not_isRequest_of_encode (decode_eq_ok_iff.1 hd), h⟩
  next => nomatch h

/-- A host's read that does not fault changes nothing but the record of observations. -/
theorem hostRead_cases {n : Nat} (h : hostRead n s = .next t) : ∃ o, t = { s with obs := s.obs ++ o } := by
  unfold hostRead readResult at h
  split_ifs at h
  · split at h <;> cases h
    exact ⟨_, rfl⟩
  · cases h
    exact ⟨[], by simp⟩

end

end Sys2Proof.Machine

namespace Sys2Proof.Machine

/-! ## Every step keeps the invariant of the machine -/

section
variable {s t : State}

theorem State.tablesWf_iff :
    s.tablesWf = true ↔ Sparse.wf Sequencer.reset s.seqs = true ∧ Sparse.wf Controller.reset s.ctls = true ∧
      Sparse.wf unlistedByte s.mem = true := by
  simp only [State.tablesWf, Bool.and_eq_true, and_assoc]

theorem Sequencer.activeOn_iff {q : Sequencer} {h : Handle} :
    q.activeOn h = true ↔ q.bound = true ∧ q.ctlid = h ∧ q.st ≠ .idle := by
  simp [Sequencer.activeOn, and_assoc]

/-! ### Where no sequencer, or one, is written -/

/-- The invariant stays where no sequencer is written and the other tables are in order. -/
theorem State.Inv.of_same_seqs (hs : s.Inv) (hcfg : t.cfg = s.cfg) (hseqs : t.seqs = s.seqs)
    (hctls : Sparse.wf Controller.reset t.ctls = true) (hmem : Sparse.wf unlistedByte t.mem = true)
    (hlegal : ∀ h, (t.ctl h).legal) : t.Inv := by
  obtain ⟨hq, -, -⟩ := State.tablesWf_iff.1 hs.tables
  have hseq : t.seq = s.seq := funext (State.seq_congr hseqs)
  refine ⟨State.tablesWf_iff.2 ⟨hseqs ▸ hq, hctls, hmem⟩, fun n => ?_, hlegal, fun m n h hne => ?_, fun n hn => ?_⟩
  · rw [hseq]; exact hs.consistent n
  · rw [hseq]; exact hs.exclusive m n h hne
  · rw [hseq]; exact hs.absent n (hcfg ▸ hn)

/-- The invariant stays where one sequencer takes consistent registers, active on no handle that another is active on. -/
theorem State.Inv.of_put (hs : s.Inv) {n : Nat} {q : Sequencer} (hcfg : t.cfg = s.cfg)
    (hseqs : t.seqs = Sparse.put Sequencer.reset s.seqs n q) (hctls : Sparse.wf Controller.reset t.ctls = true)
    (hmem : Sparse.wf unlistedByte t.mem = true) (hlegal : ∀ h, (t.ctl h).legal) (hn : n < s.cfg.ninst)
    (hq : q.Consistent) (hexcl : ∀ h, q.activeOn h = true → ∀ m, m ≠ n → (s.seq m).activeOn h = false) : t.Inv := by
  obtain ⟨hwf, -, -⟩ := State.tablesWf_iff.1 hs.tables
  have hseq (m : Nat) : t.seq m = if m = n then q else s.seq m := by rw [State.seq, hseqs, Sparse.get_put]; rfl
  refine ⟨State.tablesWf_iff.2 ⟨hseqs ▸ Sparse.wf_put _ _ _ _ hwf, hctls, hmem⟩, fun m => ?_, hlegal,
    fun m m' h hne hboth => ?_, fun m hm => ?_⟩
  · rw [hseq]
    split_ifs
    · exact hq
    · exact hs.consistent m
  · rw [hseq, hseq] at hboth
    split_ifs at hboth with h1 h2 h2
    · exact hne (h1.trans h2.symm)
    · exact absurd (hexcl h hboth.1 m' h2) (by simp [hboth.2])
    · exact absurd (hexcl h hboth.2 m h1) (by simp [hboth.1])
    · exact hs.exclusive m m' h hne hboth
  · have hne : m ≠ n := by rw [hcfg] at hm; omega
    rw [hseq, if_neg hne]
    exact hs.absent m (hcfg ▸ hm)

/-! ### The turns -/

/-- An instance that is active exists. -/
theorem State.Inv.exists_of_active (hs : s.Inv) {n : Nat} (hst : (s.seq n).st ≠ .idle) : n < s.cfg.ninst := by
  by_contra hn
  exact hst (by rw [hs.absent n (not_lt.1 hn)]; rfl)

theorem seqStep_keeps_inv {n : Nat} (hs : s.Inv) (h : seqStep n s = .next t) : t.Inv := by
  rcases seqStep_effect h with ⟨rfl, -⟩ | ⟨q', k', eff⟩
  · exact hs
  · obtain ⟨-, hctls, hmem⟩ := State.tablesWf_iff.1 hs.tables
    have hactive := eff.moves.active
    obtain ⟨hbound, hctlid⟩ := eff.moves.keeps_binding
    refine hs.of_put eff.around.1 eff.seqs (eff.ctls_wf hctls) (eff.mem_wf hmem) (fun g => ?_)
      (hs.exists_of_active hactive) ((hs.consistent n).of_moves eff.moves) (fun g hg m hm => ?_)
    · rw [eff.ctl g]
      split_ifs
      · exact eff.moves.legal (hs.legal _)
      · exact hs.legal g
    · rw [Sequencer.activeOn_iff, hbound, hctlid] at hg
      obtain ⟨hb, hc, -⟩ := hg
      exact Bool.eq_false_iff.2 fun ha => hs.exclusive m n g hm ⟨ha, Sequencer.activeOn_iff.2 ⟨hb, hc, hactive⟩⟩

/-- The registers an accepted request leaves are consistent. -/
theorem Instr.registers_consistent {i : Instr} {q : Sequencer} (hreq : isRequest i = true) (hq : q.Consistent)
    (hst : q.st = .idle) (hbound : (∀ cid, i ≠ .init cid) → q.bound = true) : (i.registers q).Consistent := by
  cases i with
  | init cid => exact .of_idle hst (hq.mode_idle.2 hst)
  | xfer sa wp wn rp rn => exact ⟨iff_of_false nofun nofun, fun _ => hbound nofun, nofun, fun _ => rfl, nofun, trivial⟩
  | rdid snp macp => exact .of_identity rfl (hbound nofun) rfl (Nat.zero_le 21)
  | _ => nomatch hreq

theorem registers_keeps_binding {i : Instr} (hi : ∀ cid, i ≠ .init cid) (q : Sequencer) :
    (i.registers q).bound = q.bound ∧ (i.registers q).ctlid = q.ctlid := by
  cases i
  case init cid => exact absurd rfl (hi cid)
  all_goals exact ⟨rfl, rfl⟩

theorem exec_request_keeps_inv {i : Instr} (hs : s.Inv) (hreq : isRequest i = true) (hn : s.selInst < s.cfg.ninst)
    (h : exec i s = .next t) : t.Inv := by
  obtain ⟨-, hctls, hmem⟩ := State.tablesWf_iff.1 hs.tables
  have hq := hs.consistent s.selInst
  obtain ⟨hst, ⟨⟨cid, rfl⟩, rfl⟩ | ⟨hi, hbound, hshared, rfl⟩⟩ := exec_request hreq h
  · refine hs.of_put rfl rfl hctls hmem hs.legal hn (Instr.registers_consistent hreq hq hst fun hi => absurd rfl (hi cid))
      fun g hg => ?_
    exact absurd hst (Sequencer.activeOn_iff.1 hg).2.2
  · refine hs.of_put rfl rfl hctls hmem hs.legal hn (Instr.registers_consistent hreq hq hst fun _ => hbound) fun g hg m hm => ?_
    obtain ⟨-, hctlid⟩ := registers_keeps_binding hi (s.seq s.selInst)
    rw [Sequencer.activeOn_iff, hctlid] at hg
    obtain ⟨-, rfl, -⟩ := hg
    exact Bool.eq_false_iff.2 fun ha => absurd (s.sharedActive_iff s.selInst |>.2 ⟨m, hm, ha⟩) (by simp [hshared])

theorem exec_port_keeps_inv {i : Instr} (hs : s.Inv) (hport : isRequest i = false) (h : exec i s = .next t) : t.Inv := by
  obtain ⟨-, hctls, hmem⟩ := State.tablesWf_iff.1 hs.tables
  have eff := exec_port hport h
  refine hs.of_same_seqs eff.around.1 eff.seqs (eff.ctls_wf hctls) (eff.mem ▸ hmem) fun g => ?_
  rw [eff.ctl g]
  split_ifs
  · exact (hs.legal _).drive i
  · exact hs.legal g

theorem completeCommand_keeps_inv (hs : s.Inv) (g : Handle) (e : BusErr) (d : Byte) : (completeCommand g e d s).Inv := by
  obtain ⟨-, hctls, hmem⟩ := State.tablesWf_iff.1 hs.tables
  rcases completeCommand_cases g e d s with ⟨-, h⟩ | ⟨c, -, h⟩ <;> rw [h]
  · exact hs
  · refine hs.of_same_seqs rfl rfl (Sparse.wf_put _ _ _ _ hctls) hmem fun g' => ?_
    change ((s.setCtl g _).ctl g').legal
    rw [State.ctl_setCtl]
    split_ifs
    · rfl
    · exact hs.legal g'

theorem resetAll_ctls_wf (ds : List CtlDraw) (hctls : Sparse.wf Controller.reset s.ctls = true) :
    Sparse.wf Controller.reset (resetAll ds s).ctls = true := by
  have key : ∀ (ds : List CtlDraw) (u : State), Sparse.wf Controller.reset u.ctls = true →
      Sparse.wf Controller.reset (ds.foldl (fun u d => u.setCtl d.handle d.controller) u).ctls = true := by
    intro ds
    induction ds with
    | nil => exact fun _ hu => hu
    | cons d ds ih => exact fun u hu => ih _ (Sparse.wf_put _ _ _ _ hu)
  exact key ds _ hctls

/-- After a reset a controller is as it was, or as some draw for it has it. -/
theorem resetAll_ctl_cases (ds : List CtlDraw) (s : State) (h : Handle) :
    (resetAll ds s).ctl h = s.ctl h ∨ ∃ d ∈ ds, d.handle = h ∧ (resetAll ds s).ctl h = d.controller := by
  rw [resetAll_ctl]
  cases hf : ds.reverse.find? (fun d => d.handle == h) with
  | none => exact .inl rfl
  | some d =>
    exact .inr ⟨d, List.mem_reverse.1 (List.mem_of_find?_eq_some hf), by simpa using List.find?_some hf, rfl⟩

theorem resetAll_keeps_inv (hs : s.Inv) (ds : List CtlDraw) : (resetAll ds s).Inv := by
  obtain ⟨-, hctls, hmem⟩ := State.tablesWf_iff.1 hs.tables
  obtain ⟨hseqs, hmem', -⟩ := resetAll_same ds s
  have hseq (n : Nat) : (resetAll ds s).seq n = Sequencer.reset := by rw [State.seq, hseqs]; rfl
  refine ⟨State.tablesWf_iff.2 ⟨by rw [hseqs]; rfl, resetAll_ctls_wf ds hctls, hmem' ▸ hmem⟩, fun n => ?_, fun g => ?_,
    fun m n g hne hboth => ?_, fun n _ => hseq n⟩
  · rw [hseq]; exact .of_idle rfl rfl
  · rcases resetAll_ctl_cases ds s g with e | ⟨d, -, -, e⟩ <;> rw [e]
    · exact hs.legal g
    · rfl
  · rw [hseq, Sequencer.reset_not_active] at hboth
    nomatch hboth.1

/-- THE INVARIANT OVER TURNS: every turn of every agent keeps it. -/
theorem runTurn_keeps_inv {τ : Turn} (hs : s.Inv) (h : runTurn τ s = .next t) : t.Inv := by
  obtain ⟨-, hctls, hmem⟩ := State.tablesWf_iff.1 hs.tables
  cases τ with
  | submit n ws =>
    rcases submitRequest_cases h with rfl | ⟨hn, i, -, hreq, hexec⟩
    · exact hs
    · exact exec_request_keeps_inv (s := { s with selInst := n }) (hs.of_same_seqs rfl rfl hctls hmem hs.legal) hreq hn hexec
  | readResult n =>
    obtain ⟨o, rfl⟩ := hostRead_cases h
    exact hs.of_same_seqs rfl rfl hctls hmem hs.legal
  | seq n => exact seqStep_keeps_inv hs h
  | complete g e d => cases h; exact completeCommand_keeps_inv hs g e d
  | drive g w =>
    obtain ⟨i, hport, hexec⟩ := drivePort_cases h
    exact exec_port_keeps_inv (s := { s with portBy := .driver g }) (hs.of_same_seqs rfl rfl hctls hmem hs.legal) hport hexec
  | agentWrite a b =>
    cases h
    exact hs.of_same_seqs (s.cfg_store _ _ _) (s.seqs_store _ _ _) (by rw [agentWrite, State.ctls_store]; exact hctls)
      (agentWrite_keeps_wf a b s hmem) fun g => by rw [agentWrite, State.ctl_store]; exact hs.legal g
  | agentRead a =>
    cases h
    unfold agentRead
    rcases s.load_cases none a.toNat with ⟨-, e⟩ | ⟨-, e⟩ <;> rw [e] <;> exact hs.of_same_seqs rfl rfl hctls hmem hs.legal
  | reset ds => cases h; exact resetAll_keeps_inv hs ds

theorem State.Inv.tookTurn (hs : s.Inv) : s.tookTurn.Inv := by
  obtain ⟨-, hctls, hmem⟩ := State.tablesWf_iff.1 hs.tables
  unfold State.tookTurn
  split <;> exact hs.of_same_seqs rfl rfl hctls hmem hs.legal

/-- Settles O29: taking the turn keeps the invariant, and so does running it, whichever agent's it is. -/
theorem stepKeepsInvariant : Obligations.StepKeepsInvariant :=
  fun _ _ hs h => runTurn_keeps_inv hs.tookTurn h

end

end Sys2Proof.Machine

namespace Sys2Proof.Machine

/-! ## Every step keeps the discipline of the port (rules R44, R128, R129) -/

/-- What the state of a sequencer in progress asks of its controller. -/
structure St.PortOk (st : St) (k : Controller) : Prop where
  busy : k.busy = true → st.isPoll = true
  direction : ∀ r, st.direction = some r → k.rw = r
  polled : ∀ c, st.pollCmd = some c →
    k.infl = some c ∨ k.infl = none ∧ k.err.isSome = true ∧ (c.receives = true → k.data.isSome = true)
  err_known : st.isErr = true → k.err.isSome = true
  data_known : st.needsData = true → k.data.isSome = true

section
variable {s t : State} {p : Params} {q q' : Sequencer} {k k' : Controller}

/-- A state that neither polls, nor relies on a direction, nor reads the port, asks for an idle controller alone. -/
theorem St.PortOk.of_idle {st : St} (hbusy : k.busy = false) (hpoll : st.pollCmd = none) (hdir : st.direction = none)
    (herr : st.isErr = false) (hdata : st.needsData = false) : st.PortOk k :=
  ⟨fun h => absurd (hbusy.symm.trans h) nofun, fun _ h => absurd (hdir.symm.trans h) nofun,
    fun _ h => absurd (hpoll.symm.trans h) nofun, fun h => absurd (herr.symm.trans h) nofun,
    fun h => absurd (hdata.symm.trans h) nofun⟩

/-- The states of the Identity Reader's own leave the port alone. -/
theorem St.unconstrained_of_isIdentity {st : St} : st.isIdentity = true →
    st.pollCmd = none ∧ st.direction = none ∧ st.isErr = false ∧ st.needsData = false := by
  cases st <;> decide

theorem St.PortOk.of_identity {st : St} (hbusy : k.busy = false) (hid : st.isIdentity = true) : st.PortOk k := by
  obtain ⟨hpoll, hdir, herr, hdata⟩ := St.unconstrained_of_isIdentity hid
  exact .of_idle hbusy hpoll hdir herr hdata

theorem afterSentinel_isIdentity {last : Nat} {next : St} (hst : q.st.isIdentity = true)
    (hnext : next.isIdentity = true) : (afterSentinel last next q).st.isIdentity = true := by
  unfold afterSentinel
  split_ifs
  · exact hnext
  · exact hst

theorem identityContinue_isIdentity (p : Params) (q : Sequencer) : (identityContinue p q).st.isIdentity = true := by
  unfold identityContinue
  split <;> split_ifs <;> rfl

/-- Without a timeout a poll goes on, or is counted. -/
theorem Shape.Moves.of_poll {r : Sequencer} (htimeout : p.busyTimeout = none) (h : (Shape.poll r).Moves p q k q' k') :
    k' = k ∧ (k.busy = false ∧ q' = r ∨ ∃ v, q' = { q with tc := v }) := by
  obtain ⟨hk, hidle | ⟨-, ht, -⟩ | ⟨-, -, hcount⟩⟩ := h
  · exact ⟨hk, .inl hidle⟩
  · rw [htimeout] at ht
    nomatch ht
  · exact ⟨hk, .inr hcount⟩

/-- The move of a sequencer finds its controller as its next state asks. -/
theorem Shape.Moves.portOk (hk : k.legal) (hok : q.st.PortOk k) (htimeout : p.busyTimeout = none)
    (h : (q.shape p).Moves p q k q' k') : q'.st.PortOk k' := by
  have hidle (hpoll : q.st.isPoll = false) : k.busy = false := Bool.eq_false_iff.2 fun hb => by simp [hok.busy hb] at hpoll
  unfold Sequencer.shape at h
  cases hst : q.st <;> rw [hst] at hok hidle <;> simp only [hst] at h
  case w1Sa | wsSa | wmSa | wfSa | r1Sa | rsSa | rmSa | rfSa =>
    obtain ⟨hb, rfl, rfl⟩ := h
    exact ⟨fun hb' => absurd (hb.symm.trans hb') nofun, fun r hr => Option.some.inj hr, nofun, nofun, nofun⟩
  case w1Put | wsPut | wmPut | wfPut =>
    obtain ⟨hb, rfl, b, rfl⟩ := h
    exact ⟨fun hb' => absurd (hb.symm.trans hb') nofun, hok.direction, nofun, nofun, nofun⟩
  case w1Cmd | wsCmd | wmCmd | wfCmd | r1Cmd | rsCmd | rmCmd | rpCmd =>
    obtain ⟨-, -, rfl, rfl⟩ := h
    exact ⟨fun _ => rfl, nofun, fun c hc => .inl hc, nofun, nofun⟩
  case rfCmd =>
    obtain ⟨-, -, rfl, rfl⟩ := h
    exact ⟨fun _ => rfl, hok.direction, fun c hc => .inl hc, nofun, nofun⟩
  case w1Poll | wmPoll | wfPoll | r1Poll | rsPoll | rmPoll | rfPoll | rpPoll =>
    obtain ⟨rfl, ⟨hb, rfl⟩ | ⟨v, rfl⟩⟩ := h.of_poll htimeout
    · obtain hsome | ⟨-, herr, hdata⟩ := hok.polled _ rfl
      · rw [Controller.legal, hb, hsome] at hk
        nomatch hk
      · exact ⟨fun h => absurd (hb.symm.trans h) nofun, hok.direction, nofun, fun _ => herr, hdata⟩
    · rw [← hst] at hok
      exact hok
  case wsPoll =>
    obtain ⟨rfl, ⟨hb, rfl⟩ | ⟨v, rfl⟩⟩ := h.of_poll htimeout
    · unfold afterFirst
      split_ifs <;> exact .of_idle hb rfl rfl rfl rfl
    · rw [← hst] at hok
      exact hok
  case w1Err | wfErr =>
    obtain ⟨rfl, rfl | rfl⟩ := h
    · unfold afterWrite
      split_ifs <;> exact .of_idle (hidle rfl) rfl rfl rfl rfl
    · exact .of_idle (hidle rfl) rfl rfl rfl rfl
  case wmErr =>
    obtain ⟨rfl, rfl | rfl⟩ := h
    · unfold afterMiddle
      split_ifs <;> exact .of_idle (hidle rfl) rfl rfl rfl rfl
    · exact .of_idle (hidle rfl) rfl rfl rfl rfl
  case r1Err | rpErr =>
    obtain ⟨rfl, rfl | rfl⟩ := h
    · exact ⟨fun hb => absurd ((hidle rfl).symm.trans hb) nofun, nofun, nofun, nofun, hok.data_known⟩
    · exact .of_idle (hidle rfl) rfl rfl rfl rfl
  case r1Get | rfGet =>
    obtain ⟨rfl, rfl⟩ := h
    exact ⟨fun hb => absurd ((hidle rfl).symm.trans hb) nofun, hok.direction, nofun, nofun, nofun⟩
  case rsGet =>
    obtain ⟨rfl, rfl⟩ := h
    unfold afterFirst
    split_ifs <;> exact .of_idle (hidle rfl) rfl rfl rfl rfl
  case rmGet =>
    obtain ⟨rfl, rfl⟩ := h
    unfold afterMiddle
    split_ifs <;> exact .of_idle (hidle rfl) rfl rfl rfl rfl
  case check | rphase =>
    obtain ⟨rfl, rfl⟩ := h
    split_ifs <;> exact .of_idle (hidle rfl) rfl rfl rfl rfl
  case idSn | idMac | idEnd =>
    obtain ⟨rfl, rfl⟩ := h
    exact .of_idle (hidle rfl) rfl rfl rfl rfl
  case idFill | idRefillSn | idRefillMac =>
    obtain ⟨rfl, rfl⟩ := h
    exact .of_identity (hidle rfl) (afterSentinel_isIdentity (by rw [hst]; rfl) rfl)
  case doneOk | doneFail =>
    unfold Sequencer.endShape at h
    split_ifs at h <;> obtain ⟨rfl, rfl⟩ := h
    · exact .of_idle (hidle rfl) rfl rfl rfl rfl
    · exact .of_identity (hidle rfl) (identityContinue_isIdentity p _)
  case idle => exact h.elim

/-! ### The discipline, sequencer by sequencer -/

/-- Every busy controller has a sequencer in progress on it, and each of those finds its controller as its state asks. -/
structure State.PortDiscipline (s : State) : Prop where
  used : ∀ g, (s.ctl g).busy = true → ∃ n, (s.seq n).activeOn g = true
  ok : ∀ n, (s.seq n).st ≠ .idle → (s.seq n).st.PortOk (s.ctl (s.seq n).ctlid)

theorem State.Inv.activeOn_ctlid (hs : s.Inv) {n : Nat} (hst : (s.seq n).st ≠ .idle) :
    (s.seq n).activeOn (s.seq n).ctlid = true :=
  Sequencer.activeOn_iff.2 ⟨(hs.consistent n).active_bound hst, rfl, hst⟩

theorem State.Inv.ctlid_ne (hs : s.Inv) {m n : Nat} (hm : (s.seq m).st ≠ .idle) (hn : (s.seq n).st ≠ .idle)
    (hne : m ≠ n) : (s.seq m).ctlid ≠ (s.seq n).ctlid :=
  fun e => hs.exclusive m n _ hne ⟨hs.activeOn_ctlid hm, e ▸ hs.activeOn_ctlid hn⟩

theorem State.PortDiscipline.of_portInv (hs : s.Inv) (hp : s.PortInv) : s.PortDiscipline := by
  refine ⟨fun g hb => ?_, fun n hst => ⟨fun hb => ?_, hp.direction n, hp.polled n, hp.err_known n, hp.data_known n⟩⟩
  · obtain ⟨n, hactive, -⟩ := hp.busy_polled g hb
    exact ⟨n, hactive⟩
  · obtain ⟨m, hactive, hpoll⟩ := hp.busy_polled _ hb
    obtain rfl : m = n := by
      by_contra hne
      exact hs.exclusive m n _ hne ⟨hactive, hs.activeOn_ctlid hst⟩
    exact hpoll

theorem State.PortDiscipline.portInv (hp : s.PortDiscipline) : s.PortInv := by
  have active {n : Nat} (h : (s.seq n).st = .idle → False) : (s.seq n).st.PortOk (s.ctl (s.seq n).ctlid) := hp.ok n h
  refine ⟨fun g hb => ?_, fun n r h => ?_, fun n c h => ?_, fun n h => ?_, fun n h => ?_⟩
  · obtain ⟨n, hn⟩ := hp.used g hb
    obtain ⟨-, rfl, hst⟩ := Sequencer.activeOn_iff.1 hn
    exact ⟨n, hn, (hp.ok n hst).busy hb⟩
  · exact (active fun e => by rw [e] at h; nomatch h).direction r h
  · exact (active fun e => by rw [e] at h; nomatch h).polled c h
  · exact (active fun e => by rw [e] at h; nomatch h).err_known h
  · exact (active fun e => by rw [e] at h; nomatch h).data_known h

/-! ### The turns -/

theorem State.PortDiscipline.of_same (hp : s.PortDiscipline) (hseq : ∀ n, t.seq n = s.seq n) (hctl : ∀ g, t.ctl g = s.ctl g) :
    t.PortDiscipline := by
  refine ⟨fun g hb => ?_, fun n hst => ?_⟩
  · rw [hctl] at hb
    simpa only [hseq] using hp.used g hb
  · rw [hseq] at hst ⊢
    rw [hctl]
    exact hp.ok n hst

/-- A sequencer's own step keeps the discipline: its controller is its alone. -/
theorem seqStep_keeps_portDiscipline {n : Nat} (hs : s.Inv) (hp : s.PortDiscipline) (htimeout : s.cfg.busyTimeout = none)
    (h : seqStep n s = .next t) : t.PortDiscipline := by
  rcases seqStep_effect h with ⟨rfl, -⟩ | ⟨q', k', eff⟩
  · exact hp
  have hactive := eff.moves.active
  obtain ⟨hbound, hctlid⟩ := eff.moves.keeps_binding
  have hok := eff.moves.portOk (hs.legal _) (hp.ok n hactive) htimeout
  have hseq (m : Nat) : t.seq m = if m = n then q' else s.seq m := by rw [State.seq, eff.seqs, Sparse.get_put]; rfl
  refine ⟨fun g hb => ?_, fun m hst => ?_⟩
  · rw [eff.ctl g] at hb
    split_ifs at hb with hg
    · refine ⟨n, ?_⟩
      rw [hseq, if_pos rfl, Sequencer.activeOn_iff, hbound, hctlid, hg]
      exact ⟨(hs.consistent n).active_bound hactive, rfl, St.ne_idle_of_isPoll (hok.busy hb)⟩
    · obtain ⟨m, hm⟩ := hp.used g hb
      have hne : m ≠ n := by
        rintro rfl
        exact hg (Sequencer.activeOn_iff.1 hm).2.1.symm
      exact ⟨m, by rw [hseq, if_neg hne]; exact hm⟩
  · rw [hseq] at hst ⊢
    split_ifs at hst ⊢ with hm
    · rw [hctlid, eff.ctl, if_pos rfl]
      exact hok
    · rw [eff.ctl, if_neg (hs.ctlid_ne hst hactive hm)]
      exact hp.ok m hst

/-- A request finds its controller idle: no other sequencer is in progress on it. -/
theorem exec_request_keeps_portDiscipline {i : Instr} (hp : s.PortDiscipline) (hreq : isRequest i = true)
    (h : exec i s = .next t) : t.PortDiscipline := by
  obtain ⟨hst, hcases⟩ := exec_request hreq h
  have hseq (m : Nat) : t.seq m = if m = s.selInst then i.registers (s.seq s.selInst) else s.seq m := by
    rcases hcases with ⟨-, rfl⟩ | ⟨-, -, -, rfl⟩ <;> simp
  have hctl (g : Handle) : t.ctl g = s.ctl g := by
    rcases hcases with ⟨-, rfl⟩ | ⟨-, -, -, rfl⟩ <;> rfl
  have other {g : Handle} {m : Nat} (hm : (s.seq m).activeOn g = true) : m ≠ s.selInst := by
    rintro rfl
    exact (Sequencer.activeOn_iff.1 hm).2.2 hst
  refine ⟨fun g hb => ?_, fun m hm => ?_⟩
  · obtain ⟨m, hm⟩ := hp.used g (hctl g ▸ hb)
    exact ⟨m, by rw [hseq, if_neg (other hm)]; exact hm⟩
  · rw [hseq] at hm ⊢
    split_ifs at hm ⊢ with heq
    · rw [hctl]
      rcases hcases with ⟨⟨cid, rfl⟩, -⟩ | ⟨hi, -, hshared, -⟩
      · exact absurd hst hm
      · rw [(registers_keeps_binding hi _).2]
        have hidle : (s.ctl (s.seq s.selInst).ctlid).busy = false := by
          refine Bool.eq_false_iff.2 fun hb => ?_
          obtain ⟨m', hm'⟩ := hp.used _ hb
          exact absurd ((s.sharedActive_iff _).2 ⟨m', other hm', hm'⟩) (by simp [hshared])
        cases i with
        | init cid => exact absurd rfl (hi cid)
        | xfer | rdid => exact .of_idle hidle rfl rfl rfl rfl
        | _ => nomatch hreq
    · rw [hctl]
      exact hp.ok m hm

/-- A completion hands over the draws of the command in flight. -/
theorem St.PortOk.complete {st : St} {c : Cmd} (hok : st.PortOk k) (hinfl : k.infl = some c) (e : BusErr) (d : Byte) :
    st.PortOk (k.complete c e d) := by
  refine ⟨nofun, hok.direction, fun c' hc => .inr ⟨rfl, rfl, fun hr => ?_⟩, fun _ => rfl, fun hd => ?_⟩
  · obtain hsome | ⟨hnone, -⟩ := hok.polled c' hc
    · cases hsome.symm.trans hinfl
      rw [Controller.data_complete, if_pos hr]
      rfl
    · exact absurd (hnone.symm.trans hinfl) nofun
  · rw [Controller.data_complete]
    split_ifs
    · rfl
    · exact hok.data_known hd

theorem completeCommand_keeps_portDiscipline (hp : s.PortDiscipline) (g : Handle) (e : BusErr) (d : Byte) :
    (completeCommand g e d s).PortDiscipline := by
  cases hinfl : (s.ctl g).infl with
  | none => rw [completeCommand_of_idle hinfl]; exact hp
  | some c =>
    obtain ⟨hctl, -, hothers, hseq, -⟩ := completeCommand_effect (e := e) (d := d) hinfl
    refine ⟨fun g' hb => ?_, fun n hst => ?_⟩
    · have hne : g' ≠ g := by
        rintro rfl
        rw [hctl] at hb
        nomatch hb
      rw [hothers g' hne] at hb
      simpa only [hseq] using hp.used g' hb
    · rw [hseq] at hst ⊢
      by_cases hg : (s.seq n).ctlid = g
      · rw [hg, hctl]
        exact (hg ▸ hp.ok n hst).complete hinfl e d
      · rw [hothers _ hg]
        exact hp.ok n hst

theorem runTurn_keeps_portDiscipline {τ : Turn} (hs : s.Inv) (hp : s.PortDiscipline) (htimeout : s.cfg.busyTimeout = none)
    (hleaves : τ.leavesPort = true) (h : runTurn τ s = .next t) : t.PortDiscipline := by
  cases τ with
  | submit n ws =>
    rcases submitRequest_cases h with rfl | ⟨-, i, -, hreq, hexec⟩
    · exact hp
    · exact exec_request_keeps_portDiscipline (s := { s with selInst := n }) ⟨hp.used, hp.ok⟩ hreq hexec
  | readResult n =>
    obtain ⟨o, rfl⟩ := hostRead_cases h
    exact ⟨hp.used, hp.ok⟩
  | seq n => exact seqStep_keeps_portDiscipline hs hp htimeout h
  | complete g e d => cases h; exact completeCommand_keeps_portDiscipline hp g e d
  | agentWrite a b => cases h; exact hp.of_same (s.seq_store _ _ _) (s.ctl_store _ _ _)
  | agentRead a =>
    cases h
    exact hp.of_same (agentRead_seq a s) fun g => by
      unfold agentRead
      rcases s.load_cases none a.toNat with ⟨-, e⟩ | ⟨-, e⟩ <;> rw [e] <;> rfl
  | drive | reset => nomatch hleaves

/-- Settles O30: a sequencer alone writes its controller, in the way its next state asks, and a completion leaves what the busy-wait
for it asks. -/
theorem stepKeepsPortDiscipline : Obligations.StepKeepsPortDiscipline := by
  intro s t hs hp htimeout hleaves h
  have hp' : s.tookTurn.PortDiscipline :=
    (State.PortDiscipline.of_portInv hs hp).of_same s.seq_tookTurn s.ctl_tookTurn
  exact (runTurn_keeps_portDiscipline hs.tookTurn hp' (s.cfg_tookTurn ▸ htimeout) hleaves h).portInv

/-! ### No sequencer faults, and reset meets both invariants -/

/-- The port faults of a sequencer's step, by its shape: `PortBusy`, or `DirMismatch` of a command. -/
theorem Shape.exists_run_eq_next {sh : Shape} {n : Nat}
    (hbusy : (∀ r, sh ≠ .poll r) → (s.ctl (s.seq n).ctlid).busy = false)
    (hdir : ∀ c next, sh = .command c next → c.dir = (s.ctl (s.seq n).ctlid).rw) : ∃ t, sh.run n s = .next t := by
  unfold Shape.run
  cases sh with
  | address r next =>
    rcases saStep_cases n r next s with ⟨hb, -⟩ | ⟨-, e⟩
    · exact absurd ((hbusy (by simp)).symm.trans hb) nofun
    · exact ⟨_, e⟩
  | load i next =>
    rcases putStep_cases n i next s with ⟨-, e⟩ | ⟨b, u, -, ⟨hb, -⟩ | ⟨-, e⟩⟩
    · exact ⟨_, e⟩
    · exact absurd ((hbusy (by simp)).symm.trans hb) nofun
    · exact ⟨_, e⟩
  | command c next =>
    rcases cmdStep_cases n c next s with ⟨hb, -⟩ | ⟨-, hd, -⟩ | ⟨-, -, e⟩
    · exact absurd ((hbusy (by simp)).symm.trans hb) nofun
    · exact absurd (hdir c next rfl) hd
    · exact ⟨_, e⟩
  | poll q =>
    obtain ⟨-, e⟩ | ⟨-, -, e⟩ | ⟨-, -, e⟩ := pollStep_cases n (fun _ => q) s
    · exact ⟨_, e⟩
    · exact ⟨_, e⟩
    · exact ⟨_, e⟩
  | check q =>
    obtain ⟨_, _, -, ⟨-, e⟩ | ⟨-, e⟩⟩ := errStep_cases n (fun _ => q) s
    · exact ⟨_, e⟩
    · exact ⟨_, e⟩
  | pull i q =>
    obtain ⟨-, e⟩ | ⟨-, _, _, -, e⟩ := getStep_cases n i (fun _ => q) s
    · exact ⟨_, e⟩
    · exact ⟨_, e⟩
  | fill a q =>
    obtain ⟨-, e⟩ | ⟨-, e⟩ := sentinelStep_cases n a (fun _ => q) s
    · exact ⟨_, e⟩
    · exact ⟨_, e⟩
  | still | move | finish => exact ⟨_, rfl⟩

/-- A command state relies on the direction of its command (rule R129). -/
theorem Sequencer.direction_of_command {c : Cmd} {next : St} (h : q.shape p = .command c next) :
    q.st.direction = some c.dir := by
  unfold Sequencer.shape Sequencer.endShape at h
  cases hst : q.st <;> simp only [hst] at h
  case doneOk | doneFail => split_ifs at h
  case w1Cmd | wsCmd | wmCmd | wfCmd | r1Cmd | rsCmd | rmCmd | rfCmd | rpCmd => cases h; rfl
  all_goals nomatch h

/-- Settles O31: a sequencer in progress on a busy controller is polling it, and a command state has addressed it in the
direction of its command. -/
theorem sequencerNeverFaults : Obligations.SequencerNeverFaults := by
  intro s n hs hp
  have hok := (State.PortDiscipline.of_portInv hs hp).ok n
  rw [seqStep_shape]
  by_cases hst : (s.seq n).st = .idle
  · exact ⟨s, by simp [Sequencer.shape, hst, Shape.run]⟩
  · refine Shape.exists_run_eq_next (fun hpoll => ?_) fun c next hc => ?_
    · refine Bool.eq_false_iff.2 fun hb => ?_
      obtain ⟨r, hr⟩ := Sequencer.exists_shape_eq_poll ((hok hst).busy hb) s.cfg
      exact hpoll r hr
    · exact ((hok hst).direction _ (Sequencer.direction_of_command hc)).symm

theorem State.reset_seq (n : Nat) : State.reset.seq n = Sequencer.reset := rfl

/-- Settles O28: after reset every sequencer is `IDLE` and every controller idle. -/
theorem resetMeetsInvariants : Obligations.ResetMeetsInvariants := by
  refine ⟨⟨rfl, fun _ => .of_idle rfl rfl, fun _ => rfl, fun _ n g _ hboth => ?_, fun _ _ => rfl⟩,
    State.PortDiscipline.portInv ⟨nofun, fun _ hst => absurd rfl hst⟩⟩
  exact absurd hboth.2 (by rw [State.reset_seq, Sequencer.reset_not_active]; nofun)

end

end Sys2Proof.Machine

namespace Sys2Proof.Machine

/-! ## What only some turns write -/

section
variable {s t : State} {p : Params} {q q' : Sequencer} {k k' : Controller}

/-! ### Parameters, admission and the turns to come: no turn writes them -/

/-- The parameters, the admission and the turns to come are as they were. -/
def State.SameWorld (s t : State) : Prop := t.cfg = s.cfg ∧ t.admission = s.admission ∧ t.env = s.env

theorem State.SameAround.sameWorld (h : s.SameAround t) : s.SameWorld t := ⟨h.1, h.2.1, h.2.2.1⟩

theorem exec_sameWorld {i : Instr} (h : exec i s = .next t) : s.SameWorld t := by
  cases hreq : isRequest i with
  | false => exact (exec_port hreq h).around.sameWorld
  | true => obtain ⟨-, ⟨-, rfl⟩ | ⟨-, -, -, rfl⟩⟩ := exec_request hreq h <;> exact ⟨rfl, rfl, rfl⟩

theorem runTurn_sameWorld {τ : Turn} (h : runTurn τ s = .next t) : s.SameWorld t := by
  cases τ with
  | submit n ws =>
    rcases submitRequest_cases h with rfl | ⟨-, i, -, -, hexec⟩
    · exact ⟨rfl, rfl, rfl⟩
    · exact (exec_sameWorld hexec :)
  | readResult n => obtain ⟨o, rfl⟩ := hostRead_cases h; exact ⟨rfl, rfl, rfl⟩
  | seq n => exact (seqStep_keeps_around h).sameWorld
  | complete g e d =>
    cases h
    rcases completeCommand_cases g e d s with ⟨-, e⟩ | ⟨c, -, e⟩ <;> rw [e] <;> exact ⟨rfl, rfl, rfl⟩
  | drive g w =>
    obtain ⟨i, -, hexec⟩ := drivePort_cases h
    exact (exec_sameWorld hexec :)
  | agentWrite a b => cases h; exact ⟨s.cfg_store _ _ _, s.admission_store _ _ _, s.env_store _ _ _⟩
  | agentRead a =>
    cases h
    unfold agentRead
    rcases s.load_cases none a.toNat with ⟨-, e⟩ | ⟨-, e⟩ <;> rw [e] <;> exact ⟨rfl, rfl, rfl⟩
  | reset ds =>
    cases h
    obtain ⟨-, -, -, -, -, hcfg, hadm, henv, -⟩ := resetAll_same ds s
    exact ⟨hcfg, hadm, henv⟩

@[simp] theorem State.admission_tookTurn (s : State) : s.tookTurn.admission = s.admission := by
  unfold State.tookTurn
  split <;> rfl

/-- Settles O32: no turn writes the parameters or the admission, and taking a turn off the list writes neither. -/
theorem parametersNeverChange : Obligations.ParametersNeverChange := by
  intro s t h
  obtain ⟨hcfg, hadm, -⟩ := runTurn_sameWorld h
  exact ⟨hcfg.trans s.cfg_tookTurn, hadm.trans s.admission_tookTurn⟩

/-! ### The binding and the result -/

/-- Settles O34: of the writers of a sequencer only `INIT` and a reset write its binding. -/
theorem bindingWrittenOnlyByInit : Obligations.BindingWrittenOnlyByInit := by
  intro s t n hstep hdiff
  have changed : ¬((t.seq n).bound = (s.seq n).bound ∧ (t.seq n).ctlid = (s.seq n).ctlid) := by tauto
  rcases step_seq hstep n with e | ⟨ws, i, hturn, hd, e⟩ | ⟨-, _, hmove⟩ | hreset
  · exact absurd ⟨congrArg _ e, congrArg _ e⟩ changed
  · by_contra hno
    refine changed (e ▸ registers_keeps_binding (fun cid hi => hno ?_) _)
    exact .inl ⟨ws, cid, hturn, hi ▸ hd⟩
  · exact absurd hmove.keeps_binding changed
  · exact .inr hreset

theorem registers_keeps_result {i : Instr} (hi : ∀ cid, i ≠ .init cid) (q : Sequencer) :
    (i.registers q).result = q.result := by
  cases i
  case init cid => exact absurd rfl (hi cid)
  all_goals rfl

/-- Settles O35: of the writers of a sequencer `INIT`, a move that finishes a request and a reset write its result. -/
theorem resultWrittenOnlyAtCompletion : Obligations.ResultWrittenOnlyAtCompletion := by
  intro s t n hstep hdiff
  rcases step_seq hstep n with e | ⟨ws, i, hturn, hd, e⟩ | ⟨hturn, _, hmove⟩ | hreset
  · exact absurd (congrArg _ e) hdiff
  · by_contra hno
    refine hdiff (e ▸ registers_keeps_result (fun cid hi => hno ?_) _)
    exact .inl ⟨ws, cid, hturn, hi ▸ hd⟩
  · rcases hmove.finish_or_sameRequest with ⟨b, hfinish⟩ | hsame
    · exact .inr (.inl ⟨hturn, (Sequencer.finish_spec hfinish).1⟩)
    · exact absurd hsame.result hdiff
  · exact .inr (.inr hreset)

/-! ### A sequencer's step: its host event, and what it leaves alone -/

theorem SeqEffect.seq {n : Nat} (eff : SeqEffect n s t q' k') (m : Nat) : t.seq m = if m = n then q' else s.seq m := by
  rw [State.seq, eff.seqs, Sparse.get_put]
  rfl

/-- Only a finishing step is seen by the host. -/
theorem SeqEffect.hh_of_sameRequest {n : Nat} (eff : SeqEffect n s t q' k') (hactive : q'.st ≠ .idle) : t.hh = s.hh := by
  rw [eff.hh]
  cases hsh : (s.seq n).shape s.cfg with
  | finish b r =>
    have hmove := eff.moves
    rw [hsh] at hmove
    obtain ⟨-, c, hr⟩ := Sequencer.finish_spec hsh
    obtain ⟨-, rfl⟩ := hmove
    exact absurd (by rw [hr]) hactive
  | _ => rfl

/-- Settles O36: a move finishes its request, with `Done` of its result, or goes on with it and the host sees nothing. -/
theorem returnToIdleLogsDone : Obligations.ReturnToIdleLogsDone := by
  intro n s t hactive hstep
  rcases seqStep_effect hstep with ⟨rfl, -⟩ | ⟨q', k', eff⟩
  · exact ⟨fun hidle => absurd hidle hactive, fun _ => ⟨rfl, rfl⟩⟩
  · rw [eff.seq n, if_pos rfl]
    rcases eff.moves.finish_or_sameRequest with ⟨b, hfinish⟩ | hsame
    · have hhh := eff.hh
      obtain ⟨-, c, rfl⟩ := Sequencer.finish_spec hfinish
      rw [hfinish] at hhh
      exact ⟨fun _ => ⟨rfl, b, rfl, rfl, hhh⟩, fun h => absurd rfl h⟩
    · exact ⟨fun hidle => absurd hidle hsame.active, fun _ => ⟨eff.hh_of_sameRequest hsame.active, hsame.result⟩⟩

theorem Shape.Moves.keeps_err {sh : Shape} (h : sh.Moves p q k q' k') : k'.err = k.err := by
  cases sh with
  | still => exact h.elim
  | address => obtain ⟨-, -, rfl⟩ := h; rfl
  | load => obtain ⟨-, -, b, rfl⟩ := h; rfl
  | command => obtain ⟨-, -, -, rfl⟩ := h; rfl
  | poll | check | pull | fill | move | finish => rw [h.1]

/-- Settles O37: a step that changes anything writes one sequencer and its own controller, of that not the status. -/
theorem sequencerStepIsLocal : Obligations.SequencerStepIsLocal := by
  intro n s t hstep
  rcases seqStep_effect hstep with ⟨rfl, -⟩ | ⟨q', k', eff⟩
  · exact ⟨fun _ _ => rfl, fun _ _ => rfl, ⟨rfl, rfl, rfl, rfl, rfl, rfl⟩, rfl⟩
  · refine ⟨fun m hm => ?_, fun g hg => ?_, eff.around, ?_⟩
    · rw [eff.seq m, if_neg hm]
    · rw [eff.ctl g, if_neg hg]
    · rw [eff.ctl, if_pos rfl]
      exact eff.moves.keeps_err

end

end Sys2Proof.Machine

namespace Sys2Proof.Machine

/-! ## The requests (rules R142, R192, R203, R217) -/

section
variable {s t : State}

/-- Settles O8: `INIT` looks at `S.ST` alone, and where that is `IDLE` writes the binding and the result. -/
theorem initBindsHandle : Obligations.InitBindsHandle := by
  intro cid s
  refine ⟨fun hst => ?_, fun hst => if_pos hst⟩
  exact ⟨_, if_neg (not_not.2 hst), by simp, rfl, rfl, fun _ => rfl⟩

/-- Rule R142: acceptance by an idle, bound sequencer whose handle no other active one has. -/
theorem accept_of_ready {n : Nat} (latch : Sequencer → Sequencer) (hst : (s.seq n).st = .idle)
    (hbound : (s.seq n).bound = true)
    (hothers : ∀ m, m ≠ n → (s.seq m).bound = true → (s.seq m).ctlid = (s.seq n).ctlid → (s.seq m).st = .idle) :
    ∃ t, accept n latch s = .next t ∧ t.seq n = latch (s.seq n) ∧ t.h = s.h ∧ t.mh = s.mh ∧ t.hh = s.hh := by
  have hshared : s.sharedActive n = false := by
    refine Bool.eq_false_iff.2 fun hs => ?_
    obtain ⟨m, hm, hactive⟩ := (s.sharedActive_iff n).1 hs
    obtain ⟨hb, hc, hne⟩ := Sequencer.activeOn_iff.1 hactive
    exact hne (hothers m hm hb hc)
  rcases accept_cases n latch s with ⟨h, -⟩ | ⟨-, h, -⟩ | ⟨-, -, h, -⟩ | ⟨-, -, -, e⟩
  · exact absurd hst h
  · simp [hbound] at h
  · simp [hshared] at h
  · exact ⟨_, e, by simp, rfl, rfl, rfl⟩

/-- Settles O9: `XFER` is the acceptance with the latch of a transfer. -/
theorem xferLatchesTransaction : Obligations.XferLatchesTransaction :=
  fun sa wp wn rp rn _ hst hbound hothers => accept_of_ready (latchTransfer sa wp wn rp rn) hst hbound hothers

/-- Settles O10: `RDID` is the acceptance with the latch of an identity read. -/
theorem rdidLatchesOutputs : Obligations.RdidLatchesOutputs :=
  fun snp macp _ hst hbound hothers => accept_of_ready (latchIdentity snp macp) hst hbound hothers

/-- Rule R217: the order of the checks of an acceptance. -/
theorem accept_faults (latch : Sequencer → Sequencer) (n : Nat) (s : State) :
    ((s.seq n).st ≠ .idle → accept n latch s = .fault .overlap) ∧
    ((s.seq n).st = .idle → (s.seq n).bound = false → accept n latch s = .fault .notBound) ∧
    ((s.seq n).st = .idle → (s.seq n).bound = true →
      (∃ m, m ≠ n ∧ (s.seq m).bound = true ∧ (s.seq m).ctlid = (s.seq n).ctlid ∧ (s.seq m).st ≠ .idle) →
      accept n latch s = .fault .sharedController) := by
  refine ⟨fun hst => if_pos hst, fun hst hb => ?_, fun hst hb ⟨m, hm, hactive⟩ => ?_⟩
  · rw [accept, if_neg (not_not.2 hst), if_pos hb]
  · have hshared := (s.sharedActive_iff n).2 ⟨m, hm, Sequencer.activeOn_iff.2 hactive⟩
    rw [accept, if_neg (not_not.2 hst), if_neg (by simp [hb]), if_pos hshared]

/-- Settles O11: both requests are acceptances. -/
theorem acceptanceFaultsInOrder : Obligations.AcceptanceFaultsInOrder := by
  rintro i s (⟨sa, wp, wn, rp, rn, rfl⟩ | ⟨snp, macp, rfl⟩)
  · exact accept_faults (latchTransfer sa wp wn rp rn) s.selInst s
  · exact accept_faults (latchIdentity snp macp) s.selInst s

/-- A new request has no raced byte, and the others have those they had (log entry 24). -/
theorem State.racedFor_forgetRaced_eq (s : State) (n m a : Nat) :
    (s.forgetRaced n).racedFor (some m) a = if m = n then false else s.racedFor (some m) a := by
  rw [Bool.eq_iff_iff, State.racedFor_forgetRaced]
  split_ifs with h <;> simp [h]

theorem registers_keeps_transfer_state (i : Instr) (q : Sequencer) :
    (i.registers q).idstg = q.idstg ∧ (i.registers q).wk = q.wk ∧ (i.registers q).i = q.i ∧
      (i.registers q).tc = q.tc ∧ (i.registers q).xok = q.xok ∧ (i.registers q).cause = q.cause := by
  cases i <;> exact ⟨rfl, rfl, rfl, rfl, rfl, rfl⟩

/-- Settles O12: an accepted request writes the selected sequencer, and beside it `HH` or the record of raced bytes. -/
theorem requestFrame : Obligations.RequestFrame := by
  intro i s t hreq h
  obtain ⟨-, ⟨⟨cid, rfl⟩, rfl⟩ | ⟨hi, -, -, rfl⟩⟩ := exec_request hreq h
  · refine ⟨fun m hm => by simp [hm], fun _ => rfl, fun _ => rfl, ⟨rfl, rfl, rfl, rfl, rfl, rfl⟩, rfl, rfl, rfl,
      fun _ _ _ => rfl, ?_⟩
    simp only [State.seq_logDone, State.seq_setSeq, if_true]
    exact ⟨rfl, rfl, rfl, rfl, rfl, rfl,
      fun _ => ⟨rfl, rfl, rfl, rfl, rfl, rfl, rfl, rfl, rfl, rfl, rfl, rfl⟩, nofun, nofun⟩
  · refine ⟨fun m hm => by simp [hm], fun _ => rfl, fun _ => rfl, ⟨rfl, rfl, rfl, rfl, rfl, rfl⟩, rfl, rfl, rfl,
      fun m a hm => ?_, ?_⟩
    · rw [State.racedFor_forgetRaced_eq, if_neg hm]
      rfl
    · obtain ⟨h1, h2, h3, h4, h5, h6⟩ := registers_keeps_transfer_state i (s.seq s.selInst)
      simp only [State.seq_forgetRaced, State.seq_setSeq, if_true, State.racedFor_forgetRaced_eq]
      refine ⟨h1, h2, h3, h4, h5, h6, fun ⟨cid, hc⟩ => absurd hc (hi cid), ?_, ?_⟩
      · rintro ⟨sa, wp, wn, rp, rn, rfl⟩
        exact ⟨rfl, rfl, rfl, rfl, rfl, rfl, rfl, fun _ => trivial⟩
      · rintro ⟨snp, macp, rfl⟩
        exact ⟨rfl, rfl, rfl, rfl, rfl, rfl, rfl, rfl, rfl, rfl, fun _ => trivial⟩

/-! ## The port operations: their frame, and the two that read (rules R113, R126) -/

/-- Settles O19: a port operation does what `Instr.drive` says to the controller addressed, and that writes only the fields of
its own operation. -/
theorem portOperationFrame : Obligations.PortOperationFrame := by
  intro i s t hport h
  have eff := exec_port hport h
  have hctl := eff.ctl (s.handleOf s.portBy)
  rw [if_pos rfl] at hctl
  refine ⟨State.seq_congr eff.seqs, fun a => ?_, eff.around, eff.mh, eff.hh, fun g hg => ?_, ?_⟩
  · rw [State.byteAt, eff.mem]; rfl
  · rw [eff.ctl g, if_neg hg]
  · rw [hctl]
    cases i with
    | init | xfer | rdid => nomatch hport
    | ssa a r => exact ⟨rfl, fun hi => absurd rfl (hi a r), fun _ => rfl, fun _ => ⟨rfl, rfl⟩⟩
    | put b => exact ⟨rfl, fun _ => ⟨rfl, rfl⟩, fun hi => absurd rfl (hi b), fun _ => ⟨rfl, rfl⟩⟩
    | get | isBusy | getError => exact ⟨rfl, fun _ => ⟨rfl, rfl⟩, fun _ => rfl, fun _ => ⟨rfl, rfl⟩⟩
    | cmdSingleSend | cmdBurstSendStart | cmdBurstSendContinue | cmdBurstSendFinish | cmdBurstReceiveStart
    | cmdBurstReceiveContinue | cmdBurstReceiveFinish | cmdBurstReceiveStop | cmdSingleReceiveNack =>
      exact ⟨rfl, fun _ => ⟨rfl, rfl⟩, fun _ => rfl, nofun⟩

/-- Settles O15: `GetData` shows the data register of an idle controller, where that is known, and else draws. -/
theorem getDataReadsDataRegister : Obligations.GetDataReadsDataRegister := by
  refine ⟨rfl, fun s => ⟨_, (portGetData s.portBy s).1, rfl, ?_⟩⟩
  obtain ⟨b, hshown, e⟩ | ⟨hshown, e⟩ := portGetData_cases s.portBy s <;> rw [e]
  · refine ⟨rfl, fun _ => rfl, fun d hb hd => ?_, fun hunknown => ?_⟩
    · rw [Controller.shownData_idle _ hb, hd] at hshown
      exact (Option.some.inj hshown).symm
    · rcases hunknown with h | h <;> simp [Controller.shownData, h] at hshown
  · refine ⟨rfl, fun _ => rfl, fun d hb hd => ?_, fun _ => rfl⟩
    rw [Controller.shownData_idle _ hb, hd] at hshown
    nomatch hshown

/-- Settles O18: `GetError` shows the status of an idle controller, where that is known, and else draws. -/
theorem getErrorReadsStatus : Obligations.GetErrorReadsStatus := by
  refine ⟨rfl, fun s => ⟨_, (portGetError s.portBy s).1, rfl, ?_⟩⟩
  obtain ⟨e, hshown, he⟩ | ⟨hshown, he⟩ := portGetError_cases s.portBy s <;> rw [he]
  · refine ⟨rfl, fun _ => rfl, fun d hb hd => ?_, fun hunknown => ?_⟩
    · rw [Controller.shownErr_idle _ hb, hd] at hshown
      exact (Option.some.inj hshown).symm
    · rcases hunknown with h | h <;> simp [Controller.shownErr, h] at hshown
  · refine ⟨rfl, fun _ => rfl, fun d hb hd => ?_, fun _ => rfl⟩
    rw [Controller.shownErr_idle _ hb, hd] at hshown
    nomatch hshown

/-! ## The turns of the host, of other agents and of reset -/

/-- Rule R87: bit 0 is the result, and the others are 0. -/
theorem resultWord_spec (b : Bool) :
    (resultWord b).extractLsb' 1 31 = 0 ∧ ((resultWord b).extractLsb' 0 1 = 1 ↔ b = true) := by
  cases b <;> decide

/-- Settles O21: the read shows `S.RESULT` as the result word, and faults on ⊥ alone. -/
theorem hostReadsResult : Obligations.HostReadsResult := by
  intro n s hn
  refine ⟨runTurn_readResult_of_unset hn, fun b hb => ?_⟩
  have hexists : s.hasInstance n = true := by simpa [State.hasInstance] using hn
  refine ⟨_, resultWord b, ?_, rfl, resultWord_spec b⟩
  simp only [runTurn, hostRead, hexists, if_true, readResult, hb]

/-- Settles O23: the turn at the head of the list is taken off and run, and it runs the instruction its words decode to. -/
theorem stepRunsDecodedInstruction : Obligations.StepRunsDecodedInstruction := by
  refine ⟨fun s n ws rest i henv hd _ => ?_, fun s h w rest i henv hd _ => ?_⟩
  · rw [step_of_env henv]
    simp only [runTurn, submitRequest, hd, State.hasInstance, decide_eq_true_eq]
    exact ⟨fun hn => if_pos hn, fun hn => if_neg (not_lt.2 hn)⟩
  · rw [step_of_env henv]
    simp only [runTurn, drivePort, hd]

/-- Settles O24: the turn put first submits, or drives, the code that those bits stand for. -/
theorem fetchWordRunsNext : Obligations.FetchWordRunsNext := by
  intro s nbits w i hword hn
  have hd : decode (tableCode nbits w) = .ok i := by
    unfold decodeTableWord at hword
    split at hword
    next hok => exact Option.some.inj hword ▸ hok
    next => nomatch hword
  have hexists : s.hasInstance s.selInst = true := by simpa [State.hasInstance] using hn
  rw [State.withFetchWord, step_listed]
  unfold State.fetchTurn
  split
  next ws hcode =>
    rw [hcode] at hd
    rw [if_pos (isRequest_of_encode (decode_eq_ok_iff.1 hd))]
    simp only [runTurn, submitRequest, hd]
    exact if_pos hexists
  next pw hcode =>
    rw [hcode] at hd
    rw [not_isRequest_of_encode (decode_eq_ok_iff.1 hd)]
    simp only [runTurn, drivePort, hd]
    rfl

/-- Settles O27: a reset lists no sequencer and empties the histories, and each controller is as the last draw for it. -/
theorem resetTurnReturnsToReset : Obligations.ResetTurnReturnsToReset := by
  intro ds s
  obtain ⟨hseqs, hmem, hh, hmh, hhh, -⟩ := resetAll_same ds s
  have hseq (n : Nat) : (resetAll ds s).seq n = Sequencer.reset := by rw [State.seq, hseqs]; rfl
  refine ⟨resetAll ds s, rfl, fun n => ?_, fun a => ?_, hh, hmh, hhh, fun h => ?_, ?_, fun h hnone => ?_⟩
  · rw [hseq]; exact ⟨rfl, rfl, rfl, rfl⟩
  · rw [State.byteAt, hmem]; rfl
  · exact resetAll_ctl_cases ds s h
  · rintro ds₁ d ds₂ rfl hlast
    have hlast' : ds₂.reverse.find? (fun e => e.handle == d.handle) = none := by
      simpa using hlast
    rw [resetAll_ctl]
    simp [List.find?_append, hlast']
  · rcases resetAll_ctl_cases ds s h with e | ⟨d, hd, he, -⟩
    · exact e
    · exact absurd he (hnone d hd)

end

end Sys2Proof.Machine

namespace Sys2Proof.Machine

/-! ## Memory: who reads and writes it, and what a race does (rules R65 to R69, R77) -/

section
variable {s t : State} {n : Nat}

/-! ### The byte a state loads or stores, by its shape -/

/-- The address a shape stores to. -/
def Shape.stores (q : Sequencer) : Shape → Option Nat
  | .pull i _ => some (bufferAddr q.rp i)
  | .fill a _ => some a
  | _ => none

/-- The index of the write byte a shape loads. -/
def Shape.loads : Shape → Option Nat
  | .load i _ => some i
  | _ => none

theorem State.storeTarget_eq (s : State) (n : Nat) :
    s.storeTarget n = ((s.seq n).shape s.cfg).stores (s.seq n) := by
  unfold State.storeTarget Sequencer.shape Sequencer.endShape
  cases (s.seq n).st
  case doneOk | doneFail => dsimp only; split_ifs <;> rfl
  all_goals rfl

theorem State.loadIndex_eq (s : State) (n : Nat) : s.loadIndex n = ((s.seq n).shape s.cfg).loads := by
  unfold State.loadIndex Sequencer.shape Sequencer.endShape
  cases (s.seq n).st
  case doneOk | doneFail => dsimp only; split_ifs <;> rfl
  all_goals rfl

/-! ### Stuck on a refused byte -/

theorem seqStep_of_refused_store {a : Nat} (ha : s.storeTarget n = some a) (hrefused : s.admits .write a = false) :
    seqStep n s = .next s := by
  rw [State.storeTarget_eq] at ha
  rw [seqStep_shape]
  cases hsh : (s.seq n).shape s.cfg <;> rw [hsh] at ha <;> cases ha
  case pull i r =>
    rcases getStep_cases n i (fun _ => r) s with ⟨-, e⟩ | ⟨hadm, -⟩
    · exact e
    · exact absurd (hadm.symm.trans hrefused) nofun
  case fill r =>
    rcases sentinelStep_cases n a (fun _ => r) s with ⟨-, e⟩ | ⟨hadm, -⟩
    · exact e
    · exact absurd (hadm.symm.trans hrefused) nofun

theorem seqStep_of_refused_load {a : Nat} (ha : s.loadTarget n = some a) (hrefused : s.admits .read a = false) :
    seqStep n s = .next s := by
  unfold State.loadTarget at ha
  split at ha
  next hmem =>
    rw [State.loadIndex_eq] at ha
    rw [seqStep_shape]
    cases hsh : (s.seq n).shape s.cfg <;> rw [hsh] at ha <;> cases ha
    next i next =>
      have hnone : writeByte n i s = none := by simp [writeByte, hmem, memRead, hrefused]
      rcases putStep_cases n i next s with ⟨-, e⟩ | ⟨b, u, hw, -⟩
      · exact e
      · rw [hnone] at hw
        nomatch hw
  next => nomatch ha

/-- Settles O51: the shared steps that store and load change nothing where memory refuses the byte. -/
theorem refusedAccessIsStuck : Obligations.RefusedAccessIsStuck :=
  fun _ a s => ⟨seqStep_of_refused_store, seqStep_of_refused_load,
    fun ha => ⟨s.not_admits_above .read a ha, s.not_admits_above .write a ha⟩⟩

/-! ### What a load and a store see -/

theorem State.fst_load (s : State) (w : Option Nat) (a : Nat) :
    (s.readRaces w a = false → (s.load w a).1 = s.byteAt a) ∧
      (s.readRaces w a = true → (s.load w a).1 = Config.freeByte s.draws) := by
  rcases s.load_cases w a with ⟨h, e⟩ | ⟨h, e⟩ <;> rw [h, e]
  · exact ⟨fun _ => rfl, nofun⟩
  · exact ⟨nofun, fun _ => rfl⟩

theorem State.byteAt_store_same (s : State) (w : Option Nat) (a : Nat) (b : Byte) :
    (s.writeRaces w a = false → (s.store w a b).byteAt a = b) ∧
      (s.writeRaces w a = true → (s.store w a b).byteAt a = Config.freeByte s.draws) := by
  rcases s.store_cases w a b with ⟨h, e⟩ | ⟨h, e⟩ <;> rw [h, e]
  · exact ⟨fun _ => by simp, nofun⟩
  · exact ⟨nofun, fun _ => by simp⟩

/-! ### The load states -/

/-- The write byte with index `i`, where memory admits it: read with one event, or the constant with none (rule R28). -/
theorem writeByte_of_admitted {i : Nat}
    (hadm : (s.seq n).wsrc = .mem → s.admits .read ((s.seq n).wp.toNat + i) = true) :
    ∃ b u, writeByte n i s = some (b, u) ∧
      ((s.seq n).wsrc = .mem →
        (s.readRaces (some n) ((s.seq n).wp.toNat + i) = false → b = s.byteAt ((s.seq n).wp.toNat + i)) ∧
        (s.readRaces (some n) ((s.seq n).wp.toNat + i) = true → b = Config.freeByte s.draws) ∧
        u.mh = s.mh ++ [⟨n, .read, (s.seq n).wp.toNat + i, b⟩]) ∧
      ((s.seq n).wsrc = .const → b = (s.seq n).wk ∧ u.mh = s.mh) := by
  rcases writeByte_cases n i s with ⟨hsrc, e⟩ | ⟨hsrc, e⟩ <;> rw [hsrc, e]
  · exact ⟨_, _, rfl, nofun, fun _ => ⟨rfl, rfl⟩⟩
  · rcases memRead_cases n (bufferAddr (s.seq n).wp i) s with ⟨hrefused, -⟩ | ⟨-, e'⟩
    · exact absurd ((hadm hsrc).symm.trans hrefused) nofun
    · obtain ⟨hbyte, hfree⟩ := s.fst_load (some n) (bufferAddr (s.seq n).wp i)
      refine ⟨_, _, e', fun _ => ⟨hbyte, hfree, ?_⟩, nofun⟩
      rcases s.load_cases (some n) (bufferAddr (s.seq n).wp i) with ⟨-, hl⟩ | ⟨-, hl⟩ <;> rw [hl] <;> rfl

/-- Settles O41: each of the four states has the shape of a load, which faults on a busy port, and else puts the write byte into
the data register. -/
theorem loadStates : Obligations.LoadStates := by
  intro n s st next i hrow hst hadm
  have hshape : (s.seq n).shape s.cfg = .load i next := by
    fin_cases hrow <;> simp only [Sequencer.shape, hst, lastIndex]
  obtain ⟨b, u, hw, hmem, hconst⟩ := writeByte_of_admitted hadm
  obtain ⟨hseqs, hctls, hbytes, -, -, hh, hhh, -⟩ := writeByte_same hw
  rw [seqStep_of_shape hshape, Shape.run]
  rcases putStep_cases n i next s with ⟨hnone, -⟩ | ⟨b', u', hw', ⟨hb, e⟩ | ⟨hb, e⟩⟩
  · rw [hw] at hnone
    nomatch hnone
  · exact ⟨fun _ => e, fun hidle => absurd (hidle.symm.trans hb) nofun⟩
  · cases hw.symm.trans hw'
    refine ⟨fun hbusy => absurd (hb.symm.trans hbusy) nofun, fun _ => ⟨_, b, e, ?_, ?_, ?_, portWord_eq_or 0x2 b, ?_, hhh, hmem, hconst⟩⟩
    · simp [State.goto, State.seq_congr hseqs]
    · simp [State.goto]; rfl
    · simp [State.goto, hh]
    · intro a
      simp [State.goto, State.byteAt, hbytes]

/-! ### The pull states and the sentinel states -/

/-- The byte read from an idle controller is its `CTL.DATA`, where that is known (rule R113). -/
theorem portGetData_of_known {w : Who} {d : Byte} (hb : (s.ctl (s.handleOf w)).busy = false)
    (hd : (s.ctl (s.handleOf w)).data = some d) : (portGetData w s).1 = d := by
  rcases portGetData_cases w s with ⟨b, hshown, hread⟩ | ⟨hshown, _⟩ <;>
    rw [Controller.shownData_idle _ hb, hd] at hshown <;> cases hshown
  rw [hread]

/-- `GetData` changes no race, and may draw. -/
theorem portGetData_races (w : Who) (s : State) :
    (portGetData w s).2.writeRaces = s.writeRaces ∧ s.draws ≤ (portGetData w s).2.draws := by
  rcases portGetData_cases w s with ⟨b, _, e⟩ | ⟨_, e⟩ <;> rw [e]
  · exact ⟨rfl, le_rfl⟩
  · exact ⟨rfl, Nat.le_succ _⟩

/-- The pull states: one read of the data register, stored at the index given (rules R68, R113). -/
theorem seqStep_pull {i : Nat} {q : Sequencer} (h : (s.seq n).shape s.cfg = .pull i q)
    (hadm : s.admits .write ((s.seq n).rp.toNat + i) = true) :
    ∃ (t : State) (b : Byte), seqStep n s = .next t ∧ t.h = s.h ++ [.port (.inst n) (.getData b)] ∧ s.SameCtls t ∧
      t.hh = s.hh ∧
      (∀ d, (s.ctl (s.seq n).ctlid).busy = false → (s.ctl (s.seq n).ctlid).data = some d → b = d) ∧
      (s.writeRaces (some n) ((s.seq n).rp.toNat + i) = false → t.byteAt ((s.seq n).rp.toNat + i) = b) ∧
      (s.writeRaces (some n) ((s.seq n).rp.toNat + i) = true →
        ∃ k, s.draws ≤ k ∧ t.byteAt ((s.seq n).rp.toNat + i) = Config.freeByte k) ∧
      (∀ a, a ≠ (s.seq n).rp.toNat + i → t.byteAt a = s.byteAt a) ∧
      t.mh = s.mh ++ [⟨n, .write, (s.seq n).rp.toNat + i, b⟩] ∧ t.seq n = q := by
  rw [seqStep_of_shape h, Shape.run]
  rcases getStep_cases n i (fun _ => q) s with ⟨hrefused, -⟩ | ⟨-, b, u, hread, e⟩
  · exact absurd (hadm.symm.trans hrefused) nofun
  obtain ⟨-, hctls, hmem, -, -, hmh, hhh, -, -, -, -, hh⟩ := portGetData_same (.inst n) s
  obtain ⟨hraces, hdraws⟩ := portGetData_races (.inst n) s
  have hknown (d) := portGetData_of_known (s := s) (w := .inst n) (d := d)
  rw [hread] at hctls hmem hmh hhh hh hraces hdraws hknown
  dsimp only at hctls hmem hmh hhh hh hraces hdraws hknown
  obtain ⟨hbyte, hfree⟩ := u.byteAt_store_same (some n) (bufferAddr (s.seq n).rp i) b
  rw [hraces] at hbyte hfree
  refine ⟨_, b, e, by simp [hh], fun g => ?_, by simp [hhh], hknown, hbyte, fun hr => ⟨_, hdraws, hfree hr⟩,
    fun a ha => (u.byteAt_store_ne _ _ _ _ ha).trans ?_, by simp [hmh, bufferAddr], by simp⟩
  · simp [State.ctl, hctls]
  · rw [State.byteAt, hmem]; rfl

/-- Settles O45: each of the four states has the shape of a pull, and hands it the registers of its rule. -/
theorem pullStates : Obligations.PullStates := by
  intro n s st next i hrow hst hadm
  refine seqStep_pull ?_ hadm
  fin_cases hrow <;> simp only [Sequencer.shape, hst, afterMiddle, ofNat_toNat_add_one] <;> rfl

/-- Settles O49: each of the three states has the shape of a sentinel write, with the registers of `afterSentinel`. -/
theorem sentinelStates : Obligations.SentinelStates := by
  intro n s st next a last hrow hst
  have hshape : (s.seq n).shape s.cfg = .fill a (afterSentinel last next (s.seq n)) := by
    fin_cases hrow <;> simp only [Sequencer.shape, hst, bufferAddr]
  rw [seqStep_of_shape hshape, Shape.run]
  rcases sentinelStep_cases n a (fun _ => afterSentinel last next (s.seq n)) s with ⟨hadm, e⟩ | ⟨hadm, e⟩ <;> rw [hadm]
  · exact ⟨fun _ => e, nofun⟩
  · obtain ⟨hbyte, hfree⟩ := s.byteAt_store_same (some n) a s.cfg.sentinel
    refine ⟨nofun, fun _ => ⟨_, e, hbyte, hfree, fun c hc => s.byteAt_store_ne _ a c _ hc, by simp, by simp, by simp,
      fun g => by simp, ?_⟩⟩
    simp only [State.seq_setSeq, if_true, afterSentinel, hst]

/-! ### The states that perform the opcode table's port instructions -/

/-- Settles O25: each state's step is its shape's, and the primitive in it is `exec` of the table's instruction. -/
theorem sequencerPerformsPortInstructions : Obligations.SequencerPerformsPortInstructions := by
  intro n s hby
  refine ⟨fun r st next hrow hst => ?_, fun i st next b u hrow hst hw => ?_, fun i st next hrow hst => ?_⟩
  · have hstep : seqStep n s = saStep n r next s := by
      fin_cases hrow <;> simp only [seqStep, hst] <;> rfl
    rw [hstep, saStep, exec, execSsa, hby]
  · have hstep : seqStep n s = putStep n i next s := by
      fin_cases hrow <;> simp only [seqStep, hst] <;> rfl
    obtain ⟨-, -, -, -, -, -, -, -, -, hby', -⟩ := writeByte_same hw
    rw [hstep, putStep, hw, exec, execPut, hby', hby]
  · have hstep : ∃ c, commandOf i = some c ∧ seqStep n s = cmdStep n c next s := by
      fin_cases hrow <;> simp only [seqStep, hst] <;> exact ⟨_, rfl, rfl⟩
    obtain ⟨c, hc, hstep⟩ := hstep
    rw [hstep, cmdStep, (command_instruction hc).2, hby]

/-! ### Another agent's accesses (rule R77) -/

theorem State.writeRaces_none_iff (s : State) (a : Nat) :
    s.writeRaces none a = true ↔
      (∃ m, (s.seq m).outputBufferHas s.cfg a = true) ∨ ∃ m, (s.seq m).writeBufferHas a = true := by
  rw [State.writeRaces_iff, ← exists_or]
  simp [State.racedFor, isOther, or_comm]

theorem State.readRaces_none_iff (s : State) (a : Nat) :
    s.readRaces none a = true ↔ ∃ m, (s.seq m).outputBufferHas s.cfg a = true := by
  rw [State.readRaces_iff]
  simp [State.racedFor, isOther]

/-- After another agent's write the accesses of the requests that hold the byte race (log entry 24). -/
theorem State.races_of_store_none {a m : Nat} (b : Byte)
    (hm : (s.seq m).writeBufferHas a = true ∨ (s.seq m).outputBufferHas s.cfg a = true) :
    (s.store none a b).readRaces (some m) a = true ∧ (s.store none a b).writeRaces (some m) a = true := by
  have hraces : s.writeRaces none a = true := (s.writeRaces_iff none a).2 (.inr ⟨m, rfl, hm⟩)
  have hraced : (s.store none a b).racedFor (some m) a = true := by
    rcases s.store_cases none a b with ⟨h, -⟩ | ⟨-, e⟩
    · exact absurd (hraces.symm.trans h) nofun
    · rw [e]
      exact (State.racedFor_markRaced _ none a a m).2 (.inr ⟨rfl, (s.mem_holders none a m).2 ⟨rfl, hm⟩⟩)
  exact ⟨(State.readRaces_iff _ _ _).2 (.inl hraced), (State.writeRaces_iff _ _ _).2 (.inl hraced)⟩

/-- Another agent's read changes the record of observations alone, and draws in a race. -/
theorem agentRead_effect (a : Word) (s : State) :
    s.SameMemory (agentRead a s) ∧ (∀ n, (agentRead a s).seq n = s.seq n) ∧ s.SameCtls (agentRead a s) ∧
      (agentRead a s).h = s.h ∧ (agentRead a s).mh = s.mh ∧ (agentRead a s).hh = s.hh ∧
      (agentRead a s).obs = s.obs ++ [.byte a (s.load none a.toNat).1] := by
  unfold agentRead
  rcases s.load_cases none a.toNat with ⟨-, e⟩ | ⟨-, e⟩ <;> rw [e] <;>
    exact ⟨fun _ => rfl, fun _ => rfl, fun _ => rfl, rfl, rfl, rfl, rfl⟩

/-- Settles O22: an agent's write is `State.store`, and its read `State.load`, by no sequencer. -/
theorem agentsAccessMemory : Obligations.AgentsAccessMemory := by
  intro a b s
  dsimp only
  obtain ⟨hbyte, hfree⟩ := s.byteAt_store_same none a.toNat b
  obtain ⟨hread, hreadFree⟩ := s.fst_load none a.toNat
  simp only [Bool.eq_false_iff, ne_eq, State.writeRaces_none_iff, State.readRaces_none_iff] at hbyte hfree hread hreadFree
  refine ⟨agentWrite a b s, agentRead a s, rfl, rfl, fun c hc => s.byteAt_store_ne none _ c b hc, hbyte, hfree,
    fun m hm => State.races_of_store_none b hm, fun n => s.seq_store none _ b n, fun g => s.ctl_store none _ b g,
    s.h_store none _ b, s.mh_store none _ b, s.hh_store none _ b, ?_⟩
  obtain ⟨hmem, hseq, hctl, hh, hmh, hhh, hobs⟩ := agentRead_effect a s
  exact ⟨hmem, hseq, hctl, hh, hmh, hhh, fun hout => hread hout ▸ hobs, fun hin => hreadFree hin ▸ hobs⟩

end

end Sys2Proof.Machine

namespace Sys2Proof.Machine

/-! ### The writers of memory (rules R43, R65, R68, R69, R77) -/

section
variable {s t : State} {n : Nat}

/-- No byte of memory is written, and none becomes a raced one. -/
def State.LeavesMemory (s t : State) : Prop :=
  t.mem = s.mem ∧ ∀ m c, t.racedFor (some m) c = true → s.racedFor (some m) c = true

/-- At most the byte at `a` is written, by the agent `w`, and it becomes a raced one for its holders alone. -/
def State.Stores (s t : State) (w : Option Nat) (a : Nat) : Prop :=
  (∀ c, c ≠ a → t.byteAt c = s.byteAt c) ∧
    ∀ m c, t.racedFor (some m) c = true → s.racedFor (some m) c = true ∨ c = a ∧ m ∈ s.holders w a

theorem State.LeavesMemory.of_raced (hmem : t.mem = s.mem) (hraced : t.raced = s.raced) : s.LeavesMemory t :=
  ⟨hmem, fun m c h => by rw [State.racedFor, hraced] at h; exact h⟩

theorem State.stores_store (s : State) (w : Option Nat) (a : Nat) (b : Byte) : s.Stores (s.store w a b) w a := by
  refine ⟨fun c hc => s.byteAt_store_ne w a c b hc, fun m c h => ?_⟩
  rcases s.store_cases w a b with ⟨-, e⟩ | ⟨-, e⟩ <;> rw [e] at h
  · exact .inl h
  · exact (State.racedFor_markRaced _ w a c m).1 h

theorem writeByte_leavesMemory {i : Nat} {b : Byte} (h : writeByte n i s = some (b, t)) :
    t.mem = s.mem ∧ t.raced = s.raced := by
  refine ⟨(writeByte_same h).2.2.1, ?_⟩
  rcases writeByte_cases n i s with ⟨-, e⟩ | ⟨-, e⟩ <;> rw [e] at h
  · cases h; rfl
  · rcases memRead_cases n (bufferAddr (s.seq n).wp i) s with ⟨-, e'⟩ | ⟨-, e'⟩ <;> rw [e'] at h <;> cases h
    rcases s.load_cases (some n) (bufferAddr (s.seq n).wp i) with ⟨-, hl⟩ | ⟨-, hl⟩ <;> rw [hl] <;> rfl

theorem seqStep_memory (h : seqStep n s = .next t) :
    s.LeavesMemory t ∨ ∃ a, s.storeTarget n = some a ∧ s.admits .write a = true ∧ s.Stores t (some n) a := by
  rw [seqStep_shape] at h
  rw [State.storeTarget_eq]
  cases hsh : (s.seq n).shape s.cfg <;> rw [hsh, Shape.run] at h
  case still | move | finish => cases h; exact .inl (.of_raced rfl rfl)
  case address r next =>
    obtain ⟨-, e⟩ | ⟨-, e⟩ := saStep_cases n r next s <;> cases e.symm.trans h
    exact .inl (.of_raced rfl rfl)
  case load i next =>
    obtain ⟨-, e⟩ | ⟨b, u, hw, ⟨-, e⟩ | ⟨-, e⟩⟩ := putStep_cases n i next s <;> cases e.symm.trans h
    · exact .inl (.of_raced rfl rfl)
    · obtain ⟨hmem, hraced⟩ := writeByte_leavesMemory hw
      exact .inl (.of_raced hmem hraced)
  case command c next =>
    obtain ⟨-, e⟩ | ⟨-, -, e⟩ | ⟨-, -, e⟩ := cmdStep_cases n c next s <;> cases e.symm.trans h
    exact .inl (.of_raced rfl rfl)
  case poll q =>
    obtain ⟨-, e⟩ | ⟨-, -, e⟩ | ⟨-, -, e⟩ := pollStep_cases n (fun _ => q) s <;> cases e.symm.trans h
    · exact .inl (.of_raced rfl rfl)
    · exact .inl (.of_raced rfl rfl)
    · rcases countPoll_cases n (s.logPort (.inst n) (.isBusy true)) with ⟨-, e⟩ | ⟨-, e⟩ <;> rw [e] <;>
        exact .inl (.of_raced rfl rfl)
  case check q =>
    obtain ⟨er, u, hread, he⟩ := errStep_cases n (fun _ => q) s
    have hu : u.mem = s.mem ∧ u.raced = s.raced := by
      rcases portGetError_cases (.inst n) s with ⟨d, -, e⟩ | ⟨-, e⟩ <;> cases e.symm.trans hread <;> exact ⟨rfl, rfl⟩
    obtain ⟨-, e⟩ | ⟨-, e⟩ := he <;> cases e.symm.trans h <;> exact .inl (.of_raced hu.1 hu.2)
  case pull i q =>
    obtain ⟨-, e⟩ | ⟨hadm, b, u, hread, e⟩ := getStep_cases n i (fun _ => q) s <;> cases e.symm.trans h
    · exact .inl (.of_raced rfl rfl)
    · refine .inr ⟨_, rfl, hadm, ?_⟩
      rcases portGetData_cases (.inst n) s with ⟨d, -, e⟩ | ⟨-, e⟩ <;> cases e.symm.trans hread
      · exact ((s.logPort _ _).stores_store _ _ _ :)
      · exact ((s.drawn.logPort _ _).stores_store _ _ _ :)
  case fill a q =>
    obtain ⟨-, e⟩ | ⟨hadm, e⟩ := sentinelStep_cases n a (fun _ => q) s <;> cases e.symm.trans h
    · exact .inl (.of_raced rfl rfl)
    · exact .inr ⟨a, rfl, hadm, s.stores_store _ _ _⟩

theorem exec_leavesMemory {i : Instr} (h : exec i s = .next t) : s.LeavesMemory t := by
  cases hreq : isRequest i with
  | false =>
    have eff := exec_port hreq h
    exact .of_raced eff.mem eff.raced
  | true =>
    obtain ⟨-, ⟨-, rfl⟩ | ⟨-, -, -, rfl⟩⟩ := exec_request hreq h
    · exact .of_raced rfl rfl
    · exact ⟨rfl, fun m c hraced => ((State.racedFor_forgetRaced _ _ c m).1 hraced).2⟩

/-- THE WRITERS OF MEMORY: another agent's write, and a sequencer whose state stores where memory admits it. -/
theorem runTurn_memory {τ : Turn} (h : runTurn τ s = .next t) :
    s.LeavesMemory t ∨ (∃ v b, τ = .agentWrite v b ∧ s.Stores t none v.toNat) ∨
      ∃ n a, τ = .seq n ∧ s.storeTarget n = some a ∧ s.admits .write a = true ∧ s.Stores t (some n) a := by
  cases τ with
  | submit n ws =>
    rcases submitRequest_cases h with rfl | ⟨-, i, -, -, hexec⟩
    · exact .inl (.of_raced rfl rfl)
    · exact .inl (exec_leavesMemory hexec :)
  | readResult n => obtain ⟨o, rfl⟩ := hostRead_cases h; exact .inl (.of_raced rfl rfl)
  | seq n =>
    rcases seqStep_memory h with hleaves | ⟨a, hstore⟩
    · exact .inl hleaves
    · exact .inr (.inr ⟨n, a, rfl, hstore⟩)
  | complete g e d =>
    cases h
    rcases completeCommand_cases g e d s with ⟨-, e⟩ | ⟨c, -, e⟩ <;> rw [e] <;> exact .inl (.of_raced rfl rfl)
  | drive g w =>
    obtain ⟨i, -, hexec⟩ := drivePort_cases h
    exact .inl (exec_leavesMemory hexec :)
  | agentWrite v b => cases h; exact .inr (.inl ⟨v, b, rfl, s.stores_store none v.toNat b⟩)
  | agentRead v =>
    cases h
    unfold agentRead
    rcases s.load_cases none v.toNat with ⟨-, e⟩ | ⟨-, e⟩ <;> rw [e] <;> exact .inl (.of_raced rfl rfl)
  | reset ds =>
    cases h
    obtain ⟨-, hmem, -, -, -, -, -, -, -, hraced⟩ := resetAll_same ds s
    refine .inl ⟨hmem, fun m c hc => ?_⟩
    rw [State.racedFor, hraced] at hc
    nomatch hc

/-- Taking a turn off the list leaves all but the list and the counter of free values. -/
theorem State.tookTurn_eq (s : State) : ∃ d e, s.tookTurn = { s with draws := d, env := e } := by
  unfold State.tookTurn
  split
  · exact ⟨_, _, rfl⟩
  · exact ⟨_, _, rfl⟩

/-- The writers of memory, over the machine's step. -/
theorem step_memory (h : step s = .next t) :
    s.LeavesMemory t ∨ (∃ v b, s.nextTurn = .agentWrite v b ∧ s.Stores t none v.toNat) ∨
      ∃ n a, s.nextTurn = .seq n ∧ s.storeTarget n = some a ∧ s.admits .write a = true ∧ s.Stores t (some n) a := by
  obtain ⟨d, e, he⟩ := s.tookTurn_eq
  have hmem := runTurn_memory h
  rw [he] at hmem
  exact hmem

theorem step_byteAt {a : Nat} (h : step s = .next t) (hne : t.byteAt a ≠ s.byteAt a) :
    (∃ v b, s.nextTurn = .agentWrite v b ∧ v.toNat = a) ∨
      ∃ n, s.nextTurn = .seq n ∧ s.storeTarget n = some a ∧ s.admits .write a = true := by
  rcases step_memory h with ⟨hmem, -⟩ | ⟨v, b, hturn, hothers, -⟩ | ⟨n, c, hturn, htarget, hadm, hothers, -⟩
  · exact absurd (by rw [State.byteAt, hmem]; rfl) hne
  · exact .inl ⟨v, b, hturn, not_not.1 fun hc => hne (hothers a (Ne.symm hc))⟩
  · obtain rfl : c = a := not_not.1 fun hc => hne (hothers a (Ne.symm hc))
    exact .inr ⟨n, hturn, htarget, hadm⟩

/-- Settles O38: whoever writes a byte of another's buffers, or makes it a raced one, touches them. -/
theorem memoryWrittenOnlyAtTarget : Obligations.MemoryWrittenOnlyAtTarget := by
  refine ⟨fun s t a h hne => step_byteAt h hne, fun s t n a h hseq htouch hbuf => ?_, fun s t n a h htouch hraced => ?_⟩
  · by_contra hne
    rcases step_byteAt h hne with ⟨v, b, hturn, rfl⟩ | ⟨m, hturn, htarget, -⟩ <;> rw [hturn] at htouch hseq
    · exact htouch hbuf
    · exact htouch ⟨fun hm => hseq (hm ▸ rfl), .inl ⟨a, htarget, hbuf⟩⟩
  · rcases step_memory h with ⟨-, hkeeps⟩ | ⟨v, b, hturn, -, hmarks⟩ | ⟨m, c, hturn, htarget, -, -, hmarks⟩
    · exact hkeeps n a hraced
    · rcases hmarks n a hraced with hr | ⟨rfl, hholds⟩
      · exact hr
      · rw [hturn] at htouch
        exact absurd ((s.mem_holders none _ n).1 hholds).2 htouch
    · rcases hmarks n a hraced with hr | ⟨rfl, hholds⟩
      · exact hr
      · rw [hturn] at htouch
        obtain ⟨hother, hbuf⟩ := (s.mem_holders (some m) a n).1 hholds
        refine absurd ⟨fun hm => ?_, .inl ⟨a, htarget, hbuf⟩⟩ htouch
        simp [isOther, hm] at hother

/-! ## The end of a host's transfer (rules R147, R148) -/

/-- Settles O47: in mode `XFER` both end states finish the request, with the outcome they write. -/
theorem transferCompletes : Obligations.TransferCompletes := by
  intro n s hmode
  constructor
  · intro hst
    refine seqStep_finish (b := true) ?_
    rw [Sequencer.shape, hst]
    exact if_pos hmode
  · intro hst
    refine seqStep_finish (b := false) ?_
    rw [Sequencer.shape, hst]
    exact if_pos hmode

end

end Sys2Proof.Machine

namespace Sys2Proof.Machine

/-! ## The histories are only appended to, and no step reads one (rules R37 to R39)

With a longer past every operation does the same: it commutes with putting events before those in the state. -/

/-- The events of a past: of the three histories, and of the record of observations. -/
structure Past where
  h : List PortEvent
  mh : List MemEvent
  hh : List HostEvent
  obs : List Observation

/-- The state with a past before its histories. -/
def State.withPast (l : Past) (s : State) : State :=
  { s with h := l.h ++ s.h, mh := l.mh ++ s.mh, hh := l.hh ++ s.hh, obs := l.obs ++ s.obs }

/-- The result with a past before the histories of its next state. -/
def Result.withPast (l : Past) (r : Result) : Result := r.andThen fun t => .next (t.withPast l)

section
variable (l : Past) (s : State)

/-! ### What a past leaves as it is -/

@[simp] theorem State.seq_withPast (n : Nat) : (s.withPast l).seq n = s.seq n := rfl
@[simp] theorem State.ctl_withPast (g : Handle) : (s.withPast l).ctl g = s.ctl g := rfl
@[simp] theorem State.byteAt_withPast (a : Nat) : (s.withPast l).byteAt a = s.byteAt a := rfl
@[simp] theorem State.cfg_withPast : (s.withPast l).cfg = s.cfg := rfl
@[simp] theorem State.draws_withPast : (s.withPast l).draws = s.draws := rfl
@[simp] theorem State.selInst_withPast : (s.withPast l).selInst = s.selInst := rfl
@[simp] theorem State.portBy_withPast : (s.withPast l).portBy = s.portBy := rfl
@[simp] theorem State.admits_withPast (k : Access) (a : Nat) : (s.withPast l).admits k a = s.admits k a := rfl
@[simp] theorem State.hasInstance_withPast (n : Nat) : (s.withPast l).hasInstance n = s.hasInstance n := rfl
@[simp] theorem State.handleOf_withPast (w : Who) : (s.withPast l).handleOf w = s.handleOf w := by cases w <;> rfl
@[simp] theorem State.sharedActive_withPast (n : Nat) : (s.withPast l).sharedActive n = s.sharedActive n := rfl
@[simp] theorem State.readRaces_withPast (w : Option Nat) (a : Nat) : (s.withPast l).readRaces w a = s.readRaces w a := by
  cases w <;> rfl
@[simp] theorem State.writeRaces_withPast (w : Option Nat) (a : Nat) :
    (s.withPast l).writeRaces w a = s.writeRaces w a := by
  cases w <;> rfl

/-! ### The updates -/

@[simp] theorem State.setSeq_withPast (n : Nat) (q : Sequencer) :
    (s.withPast l).setSeq n q = (s.setSeq n q).withPast l := rfl
@[simp] theorem State.setCtl_withPast (g : Handle) (k : Controller) :
    (s.withPast l).setCtl g k = (s.setCtl g k).withPast l := rfl
@[simp] theorem State.setByte_withPast (a : Nat) (b : Byte) :
    (s.withPast l).setByte a b = (s.setByte a b).withPast l := rfl
@[simp] theorem State.drawn_withPast : (s.withPast l).drawn = s.drawn.withPast l := rfl
@[simp] theorem State.goto_withPast (n : Nat) (st : St) : (s.withPast l).goto n st = (s.goto n st).withPast l := rfl
@[simp] theorem State.markRaced_withPast (w : Option Nat) (a : Nat) :
    (s.withPast l).markRaced w a = (s.markRaced w a).withPast l := rfl
@[simp] theorem State.forgetRaced_withPast (n : Nat) : (s.withPast l).forgetRaced n = (s.forgetRaced n).withPast l := rfl
@[simp] theorem State.logPort_withPast (w : Who) (op : PortOp) :
    (s.withPast l).logPort w op = (s.logPort w op).withPast l := by
  simp [State.logPort, State.withPast]
@[simp] theorem State.logMem_withPast (n : Nat) (k : Access) (a : Nat) (b : Byte) :
    (s.withPast l).logMem n k a b = (s.logMem n k a b).withPast l := by
  simp [State.logMem, State.withPast]
@[simp] theorem State.logDone_withPast (n : Nat) (b : Bool) :
    (s.withPast l).logDone n b = (s.logDone n b).withPast l := by
  simp [State.logDone, State.withPast]

@[simp] theorem Result.withPast_next (t : State) : Result.withPast l (.next t) = .next (t.withPast l) := rfl
@[simp] theorem Result.withPast_fault (e : Fault) : Result.withPast l (.fault e) = .fault e := rfl
@[simp] theorem Result.withPast_refused (e : Refusal) : Result.withPast l (.refused e) = .refused e := rfl

theorem Result.andThen_withPast (r : Result) {f : State → Result} (hf : ∀ u, f (u.withPast l) = (f u).withPast l) :
    (r.withPast l).andThen f = (r.andThen f).withPast l := by
  cases r <;> simp [hf]

/-! ### Memory and port -/

@[simp] theorem State.load_withPast (w : Option Nat) (a : Nat) :
    (s.withPast l).load w a = ((s.load w a).1, (s.load w a).2.withPast l) := by
  unfold State.load
  rw [State.readRaces_withPast]
  split_ifs <;> rfl

@[simp] theorem State.store_withPast (w : Option Nat) (a : Nat) (b : Byte) :
    (s.withPast l).store w a b = (s.store w a b).withPast l := by
  unfold State.store
  rw [State.writeRaces_withPast]
  split_ifs <;> rfl

theorem memWrite_withPast (n a : Nat) (b : Byte) :
    memWrite n a b (s.withPast l) = (memWrite n a b s).map (State.withPast l) := by
  unfold memWrite
  rw [State.admits_withPast]
  split_ifs <;> simp

theorem writeByte_withPast (n i : Nat) :
    writeByte n i (s.withPast l) = (writeByte n i s).map fun p => (p.1, p.2.withPast l) := by
  unfold writeByte memRead
  rw [State.seq_withPast, State.admits_withPast]
  split
  · rfl
  · split_ifs <;> simp

theorem portSetSlaveAddress_withPast (w : Who) (a : SlaveAddr) (r : Dir) :
    portSetSlaveAddress w a r (s.withPast l) = (portSetSlaveAddress w a r s).withPast l := by
  unfold portSetSlaveAddress
  rw [State.handleOf_withPast, State.ctl_withPast]
  split_ifs <;> simp

theorem portPutData_withPast (w : Who) (b : Byte) :
    portPutData w b (s.withPast l) = (portPutData w b s).withPast l := by
  unfold portPutData
  rw [State.handleOf_withPast, State.ctl_withPast]
  split_ifs <;> simp

theorem portIssueCommand_withPast (w : Who) (c : Cmd) :
    portIssueCommand w c (s.withPast l) = (portIssueCommand w c s).withPast l := by
  unfold portIssueCommand
  rw [State.handleOf_withPast, State.ctl_withPast]
  split_ifs <;> simp

theorem portGetData_withPast (w : Who) :
    portGetData w (s.withPast l) = ((portGetData w s).1, (portGetData w s).2.withPast l) := by
  unfold portGetData
  rw [State.handleOf_withPast, State.ctl_withPast]
  split <;> simp

theorem portGetError_withPast (w : Who) :
    portGetError w (s.withPast l) = ((portGetError w s).1, (portGetError w s).2.withPast l) := by
  unfold portGetError
  rw [State.handleOf_withPast, State.ctl_withPast]
  split <;> simp

/-! ### The sequencer -/

theorem saStep_withPast (n : Nat) (r : Dir) (next : St) :
    saStep n r next (s.withPast l) = (saStep n r next s).withPast l := by
  unfold saStep
  rw [State.seq_withPast, portSetSlaveAddress_withPast, Result.andThen_withPast]
  simp

theorem putStep_withPast (n i : Nat) (next : St) :
    putStep n i next (s.withPast l) = (putStep n i next s).withPast l := by
  unfold putStep
  rw [writeByte_withPast]
  cases writeByte n i s with
  | none => rfl
  | some p =>
    simp only [Option.map_some]
    rw [portPutData_withPast, Result.andThen_withPast]
    simp

theorem cmdStep_withPast (n : Nat) (c : Cmd) (next : St) :
    cmdStep n c next (s.withPast l) = (cmdStep n c next s).withPast l := by
  unfold cmdStep
  rw [portIssueCommand_withPast, Result.andThen_withPast]
  simp

theorem countPoll_withPast (n : Nat) : countPoll n (s.withPast l) = (countPoll n s).withPast l := by
  unfold countPoll
  rw [State.seq_withPast]
  split <;> rfl

theorem pollStep_withPast (n : Nat) (leave : Sequencer → Sequencer) :
    pollStep n leave (s.withPast l) = (pollStep n leave s).withPast l := by
  cases hb : (s.ctl (s.seq n).ctlid).busy
  · simp [pollStep, portIsBusy, State.handleOf, hb]
  · cases ht : timedOut s.cfg.busyTimeout (s.seq n).tc <;>
      simp [pollStep, portIsBusy, State.handleOf, hb, ht, fail, countPoll_withPast]

theorem errStep_withPast (n : Nat) (leave : Sequencer → Sequencer) :
    errStep n leave (s.withPast l) = (errStep n leave s).withPast l := by
  simp only [errStep, portGetError_withPast]
  split <;> rfl

theorem getStep_withPast (n i : Nat) (leave : Sequencer → Sequencer) :
    getStep n i leave (s.withPast l) = (getStep n i leave s).withPast l := by
  simp only [getStep, portGetData_withPast, memWrite_withPast, State.seq_withPast]
  cases memWrite n (bufferAddr (s.seq n).rp i) (portGetData (.inst n) s).1 (portGetData (.inst n) s).2 <;> rfl

theorem sentinelStep_withPast (n a : Nat) (leave : Sequencer → Sequencer) :
    sentinelStep n a leave (s.withPast l) = (sentinelStep n a leave s).withPast l := by
  simp only [sentinelStep, memWrite_withPast, State.cfg_withPast]
  cases memWrite n a s.cfg.sentinel s <;> rfl

theorem seqStep_withPast (n : Nat) : seqStep n (s.withPast l) = (seqStep n s).withPast l := by
  rw [seqStep_shape, seqStep_shape, State.seq_withPast, State.cfg_withPast]
  cases (s.seq n).shape s.cfg with
  | still | move => rfl
  | finish b q => simp [Shape.run]
  | address r next => exact saStep_withPast l s n r next
  | load i next => exact putStep_withPast l s n i next
  | command c next => exact cmdStep_withPast l s n c next
  | poll q => exact pollStep_withPast l s n fun _ => q
  | check q => exact errStep_withPast l s n fun _ => q
  | pull i q => exact getStep_withPast l s n i fun _ => q
  | fill a q => exact sentinelStep_withPast l s n a fun _ => q

/-! ### Instructions and turns -/

theorem accept_withPast (n : Nat) (latch : Sequencer → Sequencer) :
    accept n latch (s.withPast l) = (accept n latch s).withPast l := by
  unfold accept
  rw [State.seq_withPast, State.sharedActive_withPast]
  split_ifs <;> rfl

theorem exec_withPast (i : Instr) : exec i (s.withPast l) = Result.withPast l (exec i s) := by
  cases i with
  | init cid =>
    simp only [exec, execInit, State.selInst_withPast, State.seq_withPast]
    by_cases h : (s.seq s.selInst).st = .idle <;> simp [h]
  | xfer | rdid => exact accept_withPast l s _ _
  | ssa a r => exact portSetSlaveAddress_withPast l s _ a r
  | put b => exact portPutData_withPast l s _ b
  | get => simp [exec, execGet, portGetData_withPast]
  | isBusy => simp [exec, execIsBusy, portIsBusy]
  | getError => simp [exec, execGetError, portGetError_withPast]
  | cmdSingleSend | cmdBurstSendStart | cmdBurstSendContinue | cmdBurstSendFinish | cmdBurstReceiveStart
  | cmdBurstReceiveContinue | cmdBurstReceiveFinish | cmdBurstReceiveStop | cmdSingleReceiveNack =>
    exact portIssueCommand_withPast l s _ _

theorem completeCommand_withPast (g : Handle) (e : BusErr) (d : Byte) :
    completeCommand g e d (s.withPast l) = (completeCommand g e d s).withPast l := by
  simp only [completeCommand, State.ctl_withPast]
  split
  · rfl
  · simp [State.withPast]

/-- No turn but a reset reads a history. -/
theorem runTurn_withPast {τ : Turn} (hreset : ∀ ds, τ ≠ .reset ds) :
    runTurn τ (s.withPast l) = Result.withPast l (runTurn τ s) := by
  cases τ with
  | submit n ws =>
    simp only [runTurn, submitRequest]
    split
    · rw [State.hasInstance_withPast]
      split_ifs
      · exact exec_withPast l { s with selInst := n } _
      · rfl
    · rfl
    · rfl
  | readResult n =>
    simp only [runTurn, hostRead, readResult, State.hasInstance_withPast, State.seq_withPast]
    by_cases h : s.hasInstance n = true
    · cases hr : (s.seq n).result <;> simp [h, State.withPast]
    · simp [h]
  | seq n => exact seqStep_withPast l s n
  | complete g e d => simp only [runTurn, completeCommand_withPast, Result.withPast_next]
  | drive g w =>
    simp only [runTurn, drivePort]
    split
    · exact exec_withPast l { s with portBy := .driver g } _
    · rfl
  | agentWrite a b => simp [runTurn, agentWrite]
  | agentRead a =>
    simp only [runTurn, agentRead, State.load_withPast, Result.withPast_next]
    rcases s.load_cases none a.toNat with ⟨-, e⟩ | ⟨-, e⟩ <;> rw [e] <;> simp [State.withPast]
  | reset ds => exact absurd rfl (hreset ds)

/-- A reset empties the histories, and leaves the record of observations. -/
theorem resetAll_withPast (ds : List CtlDraw) :
    resetAll ds (s.withPast l) = (resetAll ds s).withPast ⟨[], [], [], l.obs⟩ := by
  have key : ∀ (ds : List CtlDraw) (u : State) (l : Past),
      ds.foldl (fun u d => u.setCtl d.handle d.controller) (u.withPast l) =
        (ds.foldl (fun u d => u.setCtl d.handle d.controller) u).withPast l := by
    intro ds
    induction ds with
    | nil => exact fun _ _ => rfl
    | cons d ds ih => exact fun u l => ih (u.setCtl d.handle d.controller) l
  exact key ds { s with seqs := [], h := [], mh := [], hh := [], raced := [] } ⟨[], [], [], l.obs⟩

@[simp] theorem State.tookTurn_withPast : (s.withPast l).tookTurn = s.tookTurn.withPast l := by
  simp only [State.tookTurn, show (s.withPast l).env = s.env from rfl]
  split <;> rfl

@[simp] theorem State.nextTurn_withPast : (s.withPast l).nextTurn = s.nextTurn := rfl

end

/-- The state without its histories. -/
def State.fresh (s : State) : State := { s with h := [], mh := [], hh := [], obs := [] }

theorem State.fresh_withPast (s : State) (h : List PortEvent) (mh : List MemEvent) (hh : List HostEvent)
    (obs : List Observation) :
    s.fresh.withPast ⟨h, mh, hh, obs⟩ = { s with h := h, mh := mh, hh := hh, obs := obs } := by
  simp [State.fresh, State.withPast]

/-- Settles O39: the step from the state without histories appends the events, after whatever past. -/
theorem historiesAreOnlyObserved : Obligations.HistoriesAreOnlyObserved := by
  intro s t h' mh' hh' obs' hstep
  have hs : s = s.fresh.withPast ⟨s.h, s.mh, s.hh, s.obs⟩ := (s.fresh_withPast s.h s.mh s.hh s.obs).symm
  rw [← s.fresh_withPast h' mh' hh' obs']
  rw [hs] at hstep
  simp only [step, State.nextTurn_withPast, State.tookTurn_withPast] at hstep ⊢
  rw [show s.nextTurn = s.fresh.nextTurn from rfl]
  by_cases hreset : ∃ ds, s.fresh.nextTurn = .reset ds
  · obtain ⟨ds, hds⟩ := hreset
    obtain ⟨-, -, hh, hmh, hhh, -, -, -, hobs, -⟩ := resetAll_same ds s.fresh.tookTurn
    have hno : s.fresh.tookTurn.obs = [] := by
      obtain ⟨d, e, h⟩ := s.fresh.tookTurn_eq
      rw [h]
      rfl
    rw [hds] at hstep ⊢
    simp only [runTurn, resetAll_withPast] at hstep ⊢
    cases hstep
    refine ⟨_, rfl, rfl, ⟨[], ?_, ?_⟩, fun h => absurd rfl (h ds), fun _ _ => ⟨hh, hmh, hhh, hh, hmh, hhh⟩⟩ <;>
      simp [State.withPast, hobs, hno]
  · have hno := not_exists.1 hreset
    rw [runTurn_withPast _ _ hno, Result.withPast, Result.andThen_eq_next] at hstep
    obtain ⟨u, hu, hut⟩ := hstep
    cases hut
    rw [runTurn_withPast _ _ hno, hu]
    exact ⟨_, rfl, rfl, ⟨u.obs, rfl, rfl⟩, fun _ => ⟨u.h, u.mh, u.hh, rfl, rfl, rfl, rfl, rfl, rfl⟩,
      fun ds hds => absurd hds (hno ds)⟩

end Sys2Proof.Machine

namespace Sys2Proof.Machine

/-! ## The timeout (rules R127, R214) and the malformed transfer (rule R143) -/

section
variable {s : State} {n k : Nat}

/-- Steps of a sequencer in a busy-wait on a busy controller, from any count below `BUSY_TIMEOUT` on: as long as the count stays
below it the sequencer counts and waits, and the poll that reaches it aborts. -/
theorem run_polls_with_timeout (hpoll : (s.seq n).st.isPoll = true) (hbusy : (s.ctl (s.seq n).ctlid).busy = true)
    (htimeout : s.cfg.busyTimeout = some k) (hk : k < 2 ^ 32) (hbelow : (s.seq n).tc.toNat < k) {j : Nat}
    (hj : (s.seq n).tc.toNat + j ≤ k) {rest : List Turn} (henv : s.env = List.replicate j (.seq n) ++ rest) :
    ∃ t, Host.Core.run Sys2Proof.core j s = .next t ∧
      t.h = s.h ++ List.replicate j (.port (.inst n) (.isBusy true)) ∧
      ((s.seq n).tc.toNat + j < k → (t.seq n).st = (s.seq n).st ∧ (t.seq n).tc.toNat = (s.seq n).tc.toNat + j) ∧
      ((s.seq n).tc.toNat + j = k → (t.seq n).st = .doneFail ∧ (t.seq n).cause = .timeout) := by
  induction j generalizing s with
  | zero => exact ⟨s, rfl, by simp, fun _ => ⟨rfl, rfl⟩, fun h => absurd h hbelow.ne⟩
  | succ j ih =>
    obtain ⟨q, hshape⟩ := Sequencer.exists_shape_eq_poll hpoll s.cfg
    obtain ⟨u, hturn, hh, hctl, -, -, -, -, hstay⟩ :=
      seqStep_poll (s := { s with env := List.replicate j (.seq n) ++ rest }) hshape
    obtain ⟨habort, hcount⟩ := hstay hbusy
    obtain ⟨hcfg, -, hrest, -⟩ := seqStep_keeps_around hturn
    have hrun := run_succ_of_step ((step_of_env henv).trans hturn)
    have hlog : u.h = s.h ++ [.port (.inst n) (.isBusy true)] :=
      hh.trans (congrArg (fun b => s.h ++ [PortEvent.port (.inst n) (.isBusy b)]) hbusy)
    by_cases hlast : (s.seq n).tc.toNat + 1 = k
    · have hseq := habort ⟨k, htimeout, hlast.ge⟩
      obtain rfl : j = 0 := by omega
      exact ⟨u, hrun 0, hlog, fun h => absurd hlast h.ne, fun _ => by rw [hseq]; exact ⟨rfl, rfl⟩⟩
    · obtain ⟨c, hseq, hc⟩ := hcount fun k' hk' => by
        cases htimeout.symm.trans hk'
        exact lt_of_le_of_ne hbelow hlast
      have hfits : (s.seq n).tc.toNat + 1 < 2 ^ 32 := by omega
      have htc : (u.seq n).tc.toNat = (s.seq n).tc.toNat + 1 := by
        rw [hseq]
        exact (congrArg BitVec.toNat (hc hfits)).trans (by rw [← ofNat_toNat_add_one]; exact Nat.mod_eq_of_lt hfits)
      have hst : (u.seq n).st = (s.seq n).st := by rw [hseq]; rfl
      obtain ⟨t, ht, hth, hwait, hend⟩ := ih (s := u) (by rw [hst]; exact hpoll)
        (by rw [hctl, hseq]; exact hbusy) (by rw [hcfg]; exact htimeout) (by omega) (by omega) hrest
      refine ⟨t, (hrun j).trans ht, ?_, fun h => ?_, fun h => hend (by omega)⟩
      · rw [hth, hlog, List.append_assoc, List.replicate_succ]
        rfl
      · obtain ⟨hst', htc'⟩ := hwait (by omega)
        exact ⟨hst'.trans hst, by omega⟩

end

/-- Settles O53: the polls from a count of 0 on. -/
theorem timeoutAbortsAtKthPoll : Obligations.TimeoutAbortsAtKthPoll := by
  intro k n j s hpoll hbusy htimeout hpos hk htc hj
  have hzero : (s.seq n).tc.toNat = 0 := by rw [htc]; rfl
  obtain ⟨t, hrun, hh, hwait, hend⟩ :=
    run_polls_with_timeout (s := { s with env := List.replicate j (.seq n) ++ s.env }) (n := n) (j := j) hpoll hbusy htimeout
      hk (hzero ▸ hpos : (s.seq n).tc.toNat < k) (by simpa [hzero] using hj : (s.seq n).tc.toNat + j ≤ k) rfl
  refine ⟨t, hrun, hh, fun hlt => ?_, fun heq => hend (by simpa [hzero] using heq : (s.seq n).tc.toNat + j = k)⟩
  obtain ⟨hst, htc'⟩ := hwait (by simpa [hzero] using hlt : (s.seq n).tc.toNat + j < k)
  refine ⟨hst, BitVec.eq_of_toNat_eq ?_⟩
  rw [htc', BitVec.toNat_ofNat, Nat.mod_eq_of_lt (by omega)]
  exact (congrArg (· + j) hzero).trans (Nat.zero_add j)

section
variable {s : State} {n : Nat} {rest : List Turn}

/-- Rule R142: a submitted `XFER` that an idle, bound sequencer accepts. -/
theorem step_submit_xfer {sa : SlaveAddr} {wp wn rp rn : Word} (hn : n < s.cfg.ninst) (hst : (s.seq n).st = .idle)
    (hbound : (s.seq n).bound = true) (hshared : s.sharedActive n = false)
    (henv : s.env = .submit n [headerWord 0x2 sa, wp, wn, rp, rn] :: rest) :
    ∃ t, step s = .next t ∧ t.env = rest ∧ t.seq n = latchTransfer sa wp wn rp rn (s.seq n) ∧ t.h = s.h ∧ t.mh = s.mh ∧
      t.hh = s.hh ∧ s.SameMemory t := by
  have hd : decode (.request [headerWord 0x2 sa, wp, wn, rp, rn]) = .ok (.xfer sa wp wn rp rn) := decode_eq_ok_iff.2 rfl
  have hexists : s.hasInstance n = true := decide_eq_true hn
  have hstep : step s = accept n (latchTransfer sa wp wn rp rn) { s with env := rest, selInst := n } := by
    rw [step_of_env henv, runTurn, submitRequest, hd]
    exact if_pos hexists
  rcases accept_cases n (latchTransfer sa wp wn rp rn) { s with env := rest, selInst := n } with
    ⟨h, -⟩ | ⟨-, h, -⟩ | ⟨-, -, h, -⟩ | ⟨-, -, -, e⟩
  · exact absurd hst h
  · exact absurd (hbound.symm.trans h) (by simp)
  · exact absurd (hshared.symm.trans h) (by simp)
  · exact ⟨_, hstep.trans e, rfl, by simp; rfl, rfl, rfl, rfl, fun _ => rfl⟩

/-- A turn of a sequencer whose step is internal. -/
theorem step_move {q : Sequencer} (henv : s.env = .seq n :: rest) (h : (s.seq n).shape s.cfg = .move q) :
    step s = .next ({ s with env := rest }.setSeq n q) :=
  (step_of_env henv).trans (seqStep_of_shape (s := { s with env := rest }) h)

/-- A turn of a sequencer whose step completes a request. -/
theorem step_finish {b : Bool} {q : Sequencer} (henv : s.env = .seq n :: rest) (h : (s.seq n).shape s.cfg = .finish b q) :
    step s = .next (({ s with env := rest }.setSeq n q).logDone n b) :=
  (step_of_env henv).trans (seqStep_of_shape (s := { s with env := rest }) h)

end

/-- Settles O55: the three steps are the acceptance, the check that finds both counts 0, and the failed end of the transfer. -/
theorem malformedTransferFails : Obligations.MalformedTransferFails := by
  intro n sa wp rp s rest hn hst hbound hshared henv
  obtain ⟨u, haccept, huenv, hseq, hh, hmh, hhh, hmem⟩ := step_submit_xfer hn hst hbound hshared henv
  have hcheck := step_move huenv (q := { u.seq n with cause := .malformed, st := .doneFail })
    (by simp [hseq, Sequencer.shape, latchTransfer])
  have hfail := step_finish (n := n) (rest := rest) (b := false)
    (s := { u with env := .seq n :: rest }.setSeq n { u.seq n with cause := .malformed, st := .doneFail })
    (q := { u.seq n with cause := .malformed, xok := false, result := some false, mode := .none, st := .idle }) rfl
    (by simp [hseq, Sequencer.shape, Sequencer.endShape, latchTransfer, Sequencer.failed])
  have hrun := (run_succ_of_step haccept 2).trans ((run_succ_of_step hcheck 1).trans (run_succ_of_step hfail 0))
  refine ⟨_, hrun, ?_, ?_, ?_, ?_, hh, hmh, hmem⟩ <;> simp [hhh]

end Sys2Proof.Machine

namespace Sys2Proof.Machine

/-! ## The reference procedures (rules R141, R189, R191, R200) -/

/-! ### Traces -/

section
variable (l m : List TraceItem)

@[simp] theorem traceCommands_append : traceCommands (l ++ m) = traceCommands l ++ traceCommands m := by
  induction l using traceCommands.induct <;> simp_all [traceCommands]

@[simp] theorem tracePuts_append : tracePuts (l ++ m) = tracePuts l ++ tracePuts m := by
  induction l using tracePuts.induct <;> simp_all [tracePuts]

@[simp] theorem traceGets_append : traceGets (l ++ m) = traceGets l ++ traceGets m := by
  induction l using traceGets.induct <;> simp_all [traceGets]

@[simp] theorem traceAddresses_append : traceAddresses (l ++ m) = traceAddresses l ++ traceAddresses m := by
  induction l using traceAddresses.induct <;> simp_all [traceAddresses]

@[simp] theorem traceChecks_append : traceChecks (l ++ m) = traceChecks l ++ traceChecks m := by
  induction l using traceChecks.induct <;> simp_all [traceChecks]

end

/-- What a trace does, by kind of operation, each in its order. -/
structure TraceParts where
  puts : List Byte := []
  gets : List Byte := []
  addresses : List (SlaveAddr × Dir) := []
  checks : List BusErr := []
  commands : List Cmd := []

/-- The parts of a trace. -/
def traceParts (l : List TraceItem) : TraceParts :=
  ⟨tracePuts l, traceGets l, traceAddresses l, traceChecks l, traceCommands l⟩

/-- One after the other. -/
def TraceParts.append (p q : TraceParts) : TraceParts :=
  ⟨p.puts ++ q.puts, p.gets ++ q.gets, p.addresses ++ q.addresses, p.checks ++ q.checks, p.commands ++ q.commands⟩

theorem traceParts_append (l m : List TraceItem) : traceParts (l ++ m) = (traceParts l).append (traceParts m) := by
  simp [traceParts, TraceParts.append]

/-- The run succeeds with these parts, stores these bytes and leaves these draws. -/
def RefRun.Succeeds (r : RefRun) (parts : TraceParts) (stored : List (Nat × Byte)) (rest : List (BusErr × Byte)) : Prop :=
  ∃ trace, r = ⟨trace, stored, .success, rest⟩ ∧ traceParts trace = parts

theorem RefRun.Succeeds.andThen {r : RefRun} {f : List (BusErr × Byte) → RefRun} {p q : TraceParts}
    {ws vs : List (Nat × Byte)} {ds es : List (BusErr × Byte)} (hr : r.Succeeds p ws ds) (hf : (f ds).Succeeds q vs es) :
    (r.andThen f).Succeeds (p.append q) (ws ++ vs) es := by
  obtain ⟨l, rfl, rfl⟩ := hr
  obtain ⟨m, e, rfl⟩ := hf
  exact ⟨l ++ m, by simp [RefRun.andThen, e], traceParts_append l m⟩

/-! ### The write phase -/

section
variable {sa : SlaveAddr}

/-- What a step of the write phase does; `checks` are the checks it makes. -/
def sendParts (sa : SlaveAddr) (b : Byte) (c : Cmd) (checks : List BusErr) : TraceParts :=
  { puts := [b], addresses := [(sa, .write)], commands := [c], checks := checks }

theorem refSend_checked (b : Byte) (c : Cmd) (d : Byte) (ds : List (BusErr × Byte)) :
    (refSend true sa b c ((.none, d) :: ds)).Succeeds (sendParts sa b c [.none]) [] ds :=
  ⟨_, rfl, rfl⟩

theorem refSend_unchecked (b : Byte) (c : Cmd) (d : BusErr × Byte) (ds : List (BusErr × Byte)) :
    (refSend false sa b c (d :: ds)).Succeeds (sendParts sa b c []) [] ds :=
  ⟨_, rfl, rfl⟩

/-- What the write phase of these bytes does, with these checks and these commands. -/
def writeParts (sa : SlaveAddr) (bytes : List Byte) (checks : Nat) (commands : List Cmd) : TraceParts :=
  { puts := bytes, addresses := List.replicate bytes.length (sa, .write), checks := List.replicate checks .none, commands }

/-- The bytes of a burst after its first: all are checked. -/
theorem refWriteRest_succeeds (b : Byte) (bytes : List Byte) (ds : List (BusErr × Byte)) (hlen : bytes.length < ds.length)
    (hok : ∀ d ∈ ds.take (bytes.length + 1), d.1 = .none) :
    (refWriteRest sa (b :: bytes) ds).Succeeds
      (writeParts sa (b :: bytes) (bytes.length + 1)
        (List.replicate bytes.length .burstSendContinue ++ [.burstSendFinish]))
      [] (ds.drop (bytes.length + 1)) := by
  induction bytes generalizing b ds with
  | nil =>
    match ds, hlen with
    | (e, d) :: ds, _ =>
      obtain rfl : e = .none := hok (e, d) (by simp)
      exact refSend_checked b _ d ds
  | cons c bytes ih =>
    match ds, hlen with
    | (e, d) :: ds, hlen =>
      obtain rfl : e = .none := hok (e, d) (by simp)
      exact (refSend_checked b _ d ds).andThen
        (ih c ds (Nat.lt_of_succ_lt_succ hlen) fun d hd => hok d (by simp at hd ⊢; exact .inr hd))

end

/-- Settles O58: a single byte is one checked step; a burst is one step unchecked, and the checked ones of its rest. -/
theorem writePhaseCounts : Obligations.WritePhaseCounts := by
  intro sa bytes ds hne hlen hok
  match bytes, ds with
  | [b], (e, d) :: ds =>
    obtain rfl : e = .none := hok (e, d) (by simp)
    obtain ⟨l, hrun, hparts⟩ := refSend_checked (sa := sa) b .singleSend d ds
    simp only [traceParts, sendParts, TraceParts.mk.injEq] at hparts
    simp [refWrite, hrun, hparts]
  | b :: c :: bytes, (e, d) :: ds =>
    have hrest := refWriteRest_succeeds (sa := sa) c bytes ds (by simpa using hlen) (by simpa using hok)
    obtain ⟨l, hrun, hparts⟩ := (refSend_unchecked (sa := sa) b .burstSendStart (e, d) ds).andThen hrest
    simp only [traceParts, sendParts, writeParts, TraceParts.append, TraceParts.mk.injEq] at hparts
    simp [refWrite, hrun, hparts, List.replicate_succ]

/-! ### The read phase -/

section
variable {sa : SlaveAddr}

/-- What the read phase that pulls these bytes does, with these checks and these commands. -/
def readParts (sa : SlaveAddr) (bytes : List Byte) (checks : List BusErr) (commands : List Cmd) : TraceParts :=
  { gets := bytes, addresses := List.replicate bytes.length (sa, .read), checks, commands }

theorem refPull_succeeds (c : Cmd) (a : Nat) (d : BusErr × Byte) (ds : List (BusErr × Byte)) :
    (refPull sa c a (d :: ds)).Succeeds (readParts sa [d.2] [] [c]) [(a, d.2)] ds :=
  ⟨_, rfl, rfl⟩

theorem refStop_succeeds (x : Byte) (ds : List (BusErr × Byte)) :
    (refStop ((.none, x) :: ds)).Succeeds (readParts sa [] [.none] [.burstReceiveStop]) [] ds :=
  ⟨_, rfl, rfl⟩

/-- The bytes of a burst after its first, `k + 1` of them: none is checked but their closing stop. -/
theorem refReadRest_succeeds (k a : Nat) (ds : List (BusErr × Byte)) (hlen : k + 1 < ds.length)
    (hok : ∀ d ∈ ds[k + 1]?, d.1 = .none) :
    (refReadRest sa (k + 1) a ds).Succeeds
      (readParts sa ((ds.take (k + 1)).map Prod.snd) [.none]
        (List.replicate k .burstReceiveContinue ++ [.burstReceiveFinish, .burstReceiveStop]))
      ((List.range' a (k + 1)).zip ((ds.take (k + 1)).map Prod.snd)) (ds.drop (k + 2)) := by
  induction k generalizing a ds with
  | zero =>
    match ds with
    | d :: (e, x) :: ds =>
      obtain rfl : e = .none := hok (e, x) (by simp)
      exact (refPull_succeeds _ a d _).andThen (refStop_succeeds (sa := sa) x ds)
  | succ k ih =>
    match ds with
    | d :: ds =>
      obtain ⟨l, hrun, hparts⟩ := (refPull_succeeds (sa := sa) .burstReceiveContinue a d ds).andThen
        (ih (a + 1) ds (by simpa using hlen) (by simpa using hok))
      refine ⟨l, hrun, hparts.trans ?_⟩
      simp [TraceParts.append, readParts, List.replicate_succ]

end

/-- Settles O59: a single byte is checked before it is pulled; a burst is one step, and those of its rest. -/
theorem readPhaseCounts : Obligations.ReadPhaseCounts := by
  rintro sa a (_ | _ | k) ds used hrn hlen hok
  · exact absurd hrn (by simp)
  · obtain ⟨⟨e, d⟩, ds, rfl⟩ := List.exists_cons_of_length_pos hlen
    obtain rfl : e = .none := hok (e, d) (by simp [used])
    simp [refRead, refReadOne, used, traceGets, traceAddresses, traceChecks, traceCommands]
  · have hused : used = k + 3 := by simp [used]
    simp only [hused] at hlen hok ⊢
    obtain ⟨d, ds, rfl⟩ := List.exists_cons_of_length_pos (Nat.zero_lt_of_lt hlen)
    have hlast : k + 1 < ds.length := Nat.le_of_succ_le_succ hlen
    have hrest := refReadRest_succeeds (sa := sa) k (a + 1) ds hlast fun d hd =>
      hok d (List.mem_of_getElem? (i := 0) (by simpa [List.getElem?_take] using hd))
    obtain ⟨l, hrun, hparts⟩ := (refPull_succeeds (sa := sa) .burstReceiveStart a d ds).andThen hrest
    simp only [traceParts, readParts, TraceParts.append, TraceParts.mk.injEq] at hparts
    simp [refRead, hrun, hparts, List.replicate_succ, ← List.range'_eq_map_range, List.range'_succ, Nat.min_eq_left hlast.le]

/-! ### What a transfer stores, whatever its draws -/

/-- The run stores the bytes it pulls, in order, from address `a` on: at most `k` of them, and `k` where it succeeds. -/
structure RefRun.Pulls (r : RefRun) (a k : Nat) : Prop where
  stored : r.stored = (List.range' a (traceGets r.trace).length).zip (traceGets r.trace)
  le : (traceGets r.trace).length ≤ k
  full : r.ending = .success → (traceGets r.trace).length = k

theorem RefRun.Pulls.andThen {r : RefRun} {f : List (BusErr × Byte) → RefRun} {a k m : Nat} (hr : r.Pulls a k)
    (hf : ∀ ds, (f ds).Pulls (a + k) m) : (r.andThen f).Pulls a (k + m) := by
  obtain ⟨hstored, hle, hfull⟩ := hr
  unfold RefRun.andThen
  cases hend : r.ending with
  | success =>
    obtain ⟨hstored', hle', hfull'⟩ := hf r.rest
    have hk := hfull hend
    refine ⟨?_, ?_, fun h => ?_⟩
    · rw [hstored, hstored', traceGets_append, List.length_append, ← List.range'_append_1,
        List.zip_append (List.length_range' ..), hk]
    · rw [traceGets_append, List.length_append]
      omega
    · rw [traceGets_append, List.length_append, hk, hfull' h]
  | abort | hang => exact ⟨hstored, hle.trans (Nat.le_add_right k m), by simp [hend]⟩

section
variable {sa : SlaveAddr}

/-- A run that pulls no byte stores none. -/
theorem RefRun.pulls_zero {r : RefRun} (hs : r.stored = []) (ht : traceGets r.trace = []) (a : Nat) : r.Pulls a 0 :=
  ⟨by simp [hs, ht], by simp [ht], by simp [ht]⟩

theorem refSend_pulls (checked : Bool) (b : Byte) (c : Cmd) (ds : List (BusErr × Byte)) (a : Nat) :
    (refSend checked sa b c ds).Pulls a 0 := by
  refine RefRun.pulls_zero ?_ ?_ a <;> cases ds <;> cases checked <;> rfl

theorem refWriteRest_pulls (bytes : List Byte) (ds : List (BusErr × Byte)) (a : Nat) :
    (refWriteRest sa bytes ds).Pulls a 0 := by
  induction bytes generalizing ds with
  | nil => exact RefRun.pulls_zero rfl rfl a
  | cons b bytes ih =>
    cases bytes with
    | nil => exact refSend_pulls _ _ _ _ a
    | cons c bytes => exact (refSend_pulls _ _ _ _ a).andThen (k := 0) (m := 0) ih

theorem refWrite_pulls (bytes : List Byte) (ds : List (BusErr × Byte)) (a : Nat) : (refWrite sa bytes ds).Pulls a 0 := by
  match bytes with
  | [] => exact RefRun.pulls_zero rfl rfl a
  | [b] => exact refSend_pulls _ _ _ _ a
  | b :: c :: bytes =>
    exact (refSend_pulls _ _ _ _ a).andThen (k := 0) (m := 0) fun ds => refWriteRest_pulls (c :: bytes) ds a

theorem refPull_pulls (c : Cmd) (a : Nat) (ds : List (BusErr × Byte)) : (refPull sa c a ds).Pulls a 1 := by
  cases ds with
  | nil => exact ⟨rfl, Nat.zero_le 1, nofun⟩
  | cons d ds => exact ⟨rfl, le_rfl, fun _ => rfl⟩

theorem refStop_pulls (a : Nat) (ds : List (BusErr × Byte)) : (refStop ds).Pulls a 0 := by
  refine RefRun.pulls_zero ?_ ?_ a <;> cases ds <;> rfl

theorem refReadRest_pulls (k a : Nat) (ds : List (BusErr × Byte)) : (refReadRest sa k a ds).Pulls a k := by
  induction k generalizing a ds with
  | zero => exact RefRun.pulls_zero rfl rfl a
  | succ k ih =>
    cases k with
    | zero => exact (refPull_pulls _ a ds).andThen fun ds => refStop_pulls (a + 1) ds
    | succ k =>
      have h := (refPull_pulls (sa := sa) .burstReceiveContinue a ds).andThen fun ds => ih (a + 1) ds
      rwa [Nat.add_comm 1 (k + 1)] at h

theorem refReadOne_pulls (a : Nat) (ds : List (BusErr × Byte)) : (refReadOne sa a ds).Pulls a 1 := by
  match ds with
  | [] => exact ⟨rfl, Nat.zero_le 1, nofun⟩
  | (.error, _) :: _ => exact ⟨rfl, Nat.zero_le 1, nofun⟩
  | (.none, _) :: _ => exact ⟨rfl, le_rfl, fun _ => rfl⟩

theorem refRead_pulls (a k : Nat) (ds : List (BusErr × Byte)) : (refRead sa a k ds).Pulls a k := by
  match k with
  | 0 => exact RefRun.pulls_zero rfl rfl a
  | 1 => exact refReadOne_pulls a ds
  | k + 2 =>
    have h := (refPull_pulls (sa := sa) .burstReceiveStart a ds).andThen fun ds =>
      refReadRest_pulls (sa := sa) (k + 1) (a + 1) ds
    rwa [Nat.add_comm 1 (k + 1)] at h

/-- A transfer stores the bytes it pulls, from its read pointer on. -/
theorem refTransfer_pulls {bytes : List Byte} (hne : bytes ≠ []) (a k : Nat) (ds : List (BusErr × Byte)) :
    (refTransfer sa bytes a k ds).Pulls a k := by
  rw [refTransfer, if_neg fun h => hne h.1, ← Nat.zero_add k]
  exact (refWrite_pulls bytes ds a).andThen fun ds => by simpa using refRead_pulls a k ds

end

/-! ### Bytes stored in order -/

section
variable {s : State}

theorem storeAll_append (ws vs : List (Nat × Byte)) (s : State) : storeAll (ws ++ vs) s = storeAll vs (storeAll ws s) :=
  List.foldl_append ..

/-- A byte that no store is to is as before. -/
theorem byteAt_storeAll_of_not_mem {ws : List (Nat × Byte)} {c : Nat} (h : ∀ w ∈ ws, w.1 ≠ c) :
    (storeAll ws s).byteAt c = s.byteAt c := by
  induction ws generalizing s with
  | nil => rfl
  | cons w ws ih =>
    refine (ih fun v hv => h v (List.mem_cons_of_mem w hv)).trans ?_
    rw [State.byteAt_setByte, if_neg (h w List.mem_cons_self).symm]

/-- Bytes stored from address `a` on: the `i`-th is at `a + i`. -/
theorem byteAt_storeAll_range (bytes : List Byte) (a i : Nat) (hi : i < bytes.length) :
    some ((storeAll ((List.range' a bytes.length).zip bytes) s).byteAt (a + i)) = bytes[i]? := by
  induction bytes generalizing a i s with
  | nil => exact absurd hi (Nat.not_lt_zero i)
  | cons b bytes ih =>
    cases i with
    | zero =>
      have hnot : ∀ w ∈ (List.range' (a + 1) bytes.length).zip bytes, w.1 ≠ a := fun w hw hwa => by
        have := (List.mem_range'_1.1 (List.of_mem_zip hw).1).1
        omega
      exact congrArg some ((byteAt_storeAll_of_not_mem hnot).trans (by simp))
    | succ i =>
      rw [Nat.add_comm i 1, ← Nat.add_assoc, Nat.add_comm 1 i]
      exact ih (a + 1) i (Nat.lt_of_succ_lt_succ hi)

/-- The stores are all to the `k` bytes from `a`. -/
def StoresWithin (ws : List (Nat × Byte)) (a k : Nat) : Prop := ∀ w ∈ ws, a ≤ w.1 ∧ w.1 < a + k

theorem StoresWithin.append {ws vs : List (Nat × Byte)} {a k : Nat} (hw : StoresWithin ws a k) (hv : StoresWithin vs a k) :
    StoresWithin (ws ++ vs) a k :=
  fun w h => (List.mem_append.1 h).elim (hw w) (hv w)

theorem StoresWithin.byteAt {ws : List (Nat × Byte)} {a k c : Nat} (hw : StoresWithin ws a k) (hc : c < a ∨ a + k ≤ c) :
    (storeAll ws s).byteAt c = s.byteAt c :=
  byteAt_storeAll_of_not_mem fun w h hwc => by
    have := hw w h
    omega

theorem RefRun.Pulls.storesWithin {r : RefRun} {a k : Nat} (hr : r.Pulls a k) : StoresWithin r.stored a k := by
  intro w hw
  rw [hr.stored] at hw
  have := List.mem_range'_1.1 (List.of_mem_zip hw).1
  have := hr.le
  omega

/-! ### The outputs of an identity read -/

theorem refSentinels_storesWithin (p : Params) (a k : Nat) : StoresWithin (refSentinels p a k) a k := by
  intro w hw
  obtain ⟨j, hj, rfl⟩ := List.mem_map.1 hw
  have := List.mem_range.1 hj
  exact ⟨Nat.le_add_right a j, Nat.add_lt_add_left this a⟩

theorem refRefill_storesWithin (p : Params) (e : RefEnd) (a k : Nat) : StoresWithin (refRefill p e a k) a k := by
  unfold refRefill
  split_ifs
  · exact refSentinels_storesWithin p a k
  · exact List.forall_mem_nil _

theorem refSentinels_eq_zip (p : Params) (a k : Nat) :
    refSentinels p a k = (List.range' a k).zip (List.replicate k p.sentinel) := by
  rw [refSentinels, List.range'_eq_map_range]
  induction k with
  | zero => rfl
  | succ k ih => simp [List.range_succ, ih, List.replicate_succ', List.zip_append]

theorem byteAt_storeAll_sentinels (p : Params) (a k i : Nat) (hi : i < k) :
    (storeAll (refSentinels p a k) s).byteAt (a + i) = p.sentinel := by
  have h := byteAt_storeAll_range (s := s) (List.replicate k p.sentinel) a i (by simpa using hi)
  rw [List.length_replicate, ← refSentinels_eq_zip, List.getElem?_replicate, if_pos hi] at h
  exact Option.some.inj h

/-- An output after its own transfer and refill: the bytes pulled, or the sentinel. -/
theorem RefRun.Pulls.output {r : RefRun} {a k : Nat} (hr : r.Pulls a k) {p : Params} (hp : p.refillOnFailure = true) :
    (r.ending = .success → ∀ i, i < k →
      some ((storeAll (r.stored ++ refRefill p r.ending a k) s).byteAt (a + i)) = (traceGets r.trace)[i]?) ∧
    (r.ending ≠ .success → ∀ i, i < k →
      (storeAll (r.stored ++ refRefill p r.ending a k) s).byteAt (a + i) = p.sentinel) := by
  refine ⟨fun hend i hi => ?_, fun hend i hi => ?_⟩
  · rw [refRefill, if_neg (by simp [hend]), List.append_nil, hr.stored]
    exact byteAt_storeAll_range _ a i (by rwa [hr.full hend])
  · rw [refRefill, if_pos ⟨hend, hp⟩, storeAll_append]
    exact byteAt_storeAll_sentinels p a k i hi

end

/-- An identity read of which both transfers end: of what it stores, the transfer and the refill of an output come last. -/
theorem refIdentity_of_ended {p : Params} {snp macp : Nat} {ds : List (BusErr × Byte)} {sn mac : RefRun}
    (hsn : sn = refTransfer p.idSlaveAddr [p.snWordAddr] snp p.snLen.toNat ds)
    (hmac : mac = refTransfer p.macSlaveAddr [p.macWordAddr] macp p.macLen.toNat sn.rest)
    (hsnEnd : sn.ending ≠ .hang) (hmacEnd : mac.ending ≠ .hang) :
    refIdentity p snp macp ds = ⟨sn.trace ++ mac.trace,
      (refSentinels p snp 16 ++ refSentinels p macp 6) ++
        ((sn.stored ++ refRefill p sn.ending snp 16) ++ (mac.stored ++ refRefill p mac.ending macp 6)),
      some (mac.ending == .success)⟩ := by
  simp only [refIdentity, ← hsn, ← hmac, if_neg hsnEnd, if_neg hmacEnd, List.append_assoc]

/-- Settles O60: the stores to the one output leave the other. -/
theorem identityOutcomeTable : Obligations.IdentityOutcomeTable := by
  intro p snp macp ds s hsnLen hmacLen hrefill hdisjoint sn mac ref t hsnEnd hmacEnd
  have hsnLen : p.snLen.toNat = 16 := by rw [hsnLen]; rfl
  have hmacLen : p.macLen.toNat = 6 := by rw [hmacLen]; rfl
  have hsnPulls : sn.Pulls snp 16 := refTransfer_pulls (by simp) snp 16 ds
  have hmacPulls : mac.Pulls macp 6 := refTransfer_pulls (by simp) macp 6 sn.rest
  have href := refIdentity_of_ended (p := p) (snp := snp) (macp := macp) (ds := ds) (sn := sn) (mac := mac)
    (by rw [hsnLen]) (by rw [hmacLen]) hsnEnd hmacEnd
  obtain ⟨filled, hfilled⟩ : ∃ u, u = storeAll (refSentinels p snp 16 ++ refSentinels p macp 6) s := ⟨_, rfl⟩
  obtain ⟨u, hu⟩ : ∃ u, u = storeAll (sn.stored ++ refRefill p sn.ending snp 16) filled := ⟨_, rfl⟩
  have ht : t = storeAll (mac.stored ++ refRefill p mac.ending macp 6) u := by
    simp only [t, ref, href, hu, hfilled, storeAll_append]
  have hsnByte : ∀ i, i < 16 → t.byteAt (snp + i) = u.byteAt (snp + i) := fun i hi => by
    rw [ht]
    exact (hmacPulls.storesWithin.append (refRefill_storesWithin p _ macp 6)).byteAt (by omega)
  obtain ⟨hsnOk, hsnFail⟩ := hsnPulls.output (s := filled) hrefill
  obtain ⟨hmacOk, hmacFail⟩ := hmacPulls.output (s := u) hrefill
  rw [← hu] at hsnOk hsnFail
  rw [← ht] at hmacOk hmacFail
  exact ⟨by simp only [ref, href], fun h i hi => by rw [hsnByte i hi, hsnOk h i hi],
    fun h i hi => by rw [hsnByte i hi, hsnFail h i hi], hmacOk, hmacFail⟩

end Sys2Proof.Machine

namespace Sys2Proof.Machine

/-! ## The eager schedule (95_test_vectors.md section 0): runs, and what each step of one does -/

/-! ### The port operations of a history -/

@[simp] theorem portOps_append (h g : List PortEvent) : portOps (h ++ g) = portOps h ++ portOps g := by
  induction h using portOps.induct <;> simp_all [portOps]

@[simp] theorem portOps_port (w : Who) (o : PortOp) : portOps [.port w o] = [o] := rfl

@[simp] theorem portOps_complete (h : Handle) (c : Cmd) (e : BusErr) (d : Option Byte) : portOps [.complete h c e d] = [] := rfl

/-- What a part of a request of instance `n` does under the eager schedule, from `s` with draws `ds` to `t` with draws `es`: the
port operations of a trace, these memory events, these bytes stored in order, and nothing else but in the registers of the instance
and its controller. -/
structure Goes (n : Nat) (ds : List (BusErr × Byte)) (s : State) (es : List (BusErr × Byte)) (t : State)
    (trace : List TraceItem) (events : List MemEvent) (stored : List (Nat × Byte)) : Prop where
  run : ∃ k, ∀ m, eagerRun (k + m) n ds s = eagerRun m n es t
  ports : portOps t.h = portOps s.h ++ trace.map TraceItem.eager
  mh : t.mh = s.mh ++ events
  memory : ∀ a, t.byteAt a = (storeAll stored s).byteAt a
  others : ∀ m, m ≠ n → t.seq m = s.seq m
  raced : t.raced = s.raced
  cfg : t.cfg = s.cfg
  admission : t.admission = s.admission
  hh : t.hh = s.hh

/-- The write byte with index `i` of instance `n`, in memory or `S.WK` (rule R28). -/
def State.writeByteAt (s : State) (n i : Nat) : Byte :=
  match (s.seq n).wsrc with
  | .mem => s.byteAt (bufferAddr (s.seq n).wp i)
  | .const => (s.seq n).wk

/-- The reads of the write bytes with indices from `i` on. -/
def readsFrom (n : Nat) (q : Sequencer) (i : Nat) (loaded : List Byte) : List MemEvent :=
  match q.wsrc with
  | .mem => loaded.mapIdx fun j b => ⟨n, .read, bufferAddr q.wp (i + j), b⟩
  | .const => []

section
variable {n : Nat} {ds es fs : List (BusErr × Byte)} {s t u : State}

/-- Storing the same bytes keeps memories the same. -/
theorem storeAll_sameMemory (ws : List (Nat × Byte)) (h : s.SameMemory t) : (storeAll ws s).SameMemory (storeAll ws t) := by
  induction ws generalizing s t with
  | nil => exact h
  | cons w ws ih =>
    refine ih (s := s.setByte w.1 w.2) (t := t.setByte w.1 w.2) fun a => ?_
    rw [State.byteAt_setByte, State.byteAt_setByte, h a]

theorem Goes.refl (n : Nat) (ds : List (BusErr × Byte)) (s : State) : Goes n ds s ds s [] [] [] :=
  ⟨⟨0, fun m => by rw [Nat.zero_add]⟩, by simp, by simp, fun _ => rfl, fun _ _ => rfl, rfl, rfl, rfl, rfl⟩

theorem Goes.trans {l l' : List TraceItem} {ev ev' : List MemEvent} {ws ws' : List (Nat × Byte)}
    (h : Goes n ds s es t l ev ws) (h' : Goes n es t fs u l' ev' ws') :
    Goes n ds s fs u (l ++ l') (ev ++ ev') (ws ++ ws') := by
  obtain ⟨k, hk⟩ := h.run
  obtain ⟨k', hk'⟩ := h'.run
  refine ⟨⟨k + k', fun m => by rw [Nat.add_assoc, hk, hk']⟩, ?_, ?_, fun a => ?_,
    fun m hm => (h'.others m hm).trans (h.others m hm), h'.raced.trans h.raced, h'.cfg.trans h.cfg,
    h'.admission.trans h.admission, h'.hh.trans h.hh⟩
  · rw [h'.ports, h.ports, List.map_append, List.append_assoc]
  · rw [h'.mh, h.mh, List.append_assoc]
  · rw [h'.memory a, storeAll_append]
    exact storeAll_sameMemory ws' h.memory a

/-! ### The turns -/

theorem Goes.of_turn {τ : Turn} {l : List TraceItem} {ev : List MemEvent} {ws : List (Nat × Byte)}
    (hturn : eagerTurn n s ds = some (τ, es)) (hrun : runTurn τ s = .next t)
    (ports : portOps t.h = portOps s.h ++ l.map TraceItem.eager) (mh : t.mh = s.mh ++ ev)
    (memory : ∀ a, t.byteAt a = (storeAll ws s).byteAt a)
    (others : ∀ m, m ≠ n → t.seq m = s.seq m) (raced : t.raced = s.raced) (cfg : t.cfg = s.cfg)
    (admission : t.admission = s.admission) (hh : t.hh = s.hh) : Goes n ds s es t l ev ws :=
  ⟨⟨1, fun m => by rw [Nat.add_comm, eagerRun, hturn]; simp only [hrun]⟩, ports, mh, memory, others, raced, cfg,
    admission, hh⟩

/-- The state is not `IDLE` where the shape is that of a step. -/
theorem Sequencer.active_of_shape {q : Sequencer} {p : Params} {sh : Shape} (h : q.shape p = sh) (hsh : sh ≠ .still) :
    q.st ≠ .idle :=
  fun hst => hsh (by rw [← h, Sequencer.shape, hst])

/-- With no command in flight it is the sequencer's turn. -/
theorem eagerTurn_seq (hst : (s.seq n).st ≠ .idle) (hq : s.CtlQuiet (s.seq n).ctlid) :
    eagerTurn n s ds = some (.seq n, ds) := by
  simp [eagerTurn, hst, hq.2]

/-- With a command in flight it is the controller's turn. -/
theorem eagerTurn_complete {c : Cmd} {e : BusErr} {d : Byte} (hst : (s.seq n).st ≠ .idle)
    (hi : (s.ctl (s.seq n).ctlid).infl = some c) :
    eagerTurn n s ((e, d) :: ds) = some (.complete (s.seq n).ctlid e d, ds) := by
  simp [eagerTurn, hst, hi]

/-- An address step. -/
theorem goes_address {r : Dir} {next : St} (hshape : (s.seq n).shape s.cfg = .address r next)
    (hq : s.CtlQuiet (s.seq n).ctlid) :
    ∃ t, Goes n ds s ds t [.op (.setSlaveAddress (s.seq n).sa r)] [] [] ∧ t.seq n = { s.seq n with st := next } ∧
      t.ctl (s.seq n).ctlid = (s.ctl (s.seq n).ctlid).address (s.seq n).sa r := by
  rcases saStep_cases n r next s with ⟨hb, -⟩ | ⟨-, e⟩
  · simp [hq.1] at hb
  · refine ⟨_, .of_turn (eagerTurn_seq (Sequencer.active_of_shape hshape (by simp)) hq) ((seqStep_of_shape hshape).trans e)
      ?_ ?_ ?_ ?_ rfl rfl rfl rfl, ?_, ?_⟩
    all_goals simp +contextual [State.goto, TraceItem.eager, storeAll]

/-- A write byte that memory admits and no race has, as it is, with its read. -/
theorem writeByte_quiet {i : Nat} (hadm : (s.seq n).wsrc = .mem → s.admits .read ((s.seq n).wp.toNat + i) = true ∧
      s.readRaces (some n) ((s.seq n).wp.toNat + i) = false) :
    writeByte n i s =
      some (s.writeByteAt n i, { s with mh := s.mh ++ readsFrom n (s.seq n) i [s.writeByteAt n i] }) := by
  rcases writeByte_cases n i s with ⟨hsrc, e⟩ | ⟨hsrc, e⟩
  · simp [e, State.writeByteAt, readsFrom, hsrc]
  · obtain ⟨hread, hrace⟩ := hadm hsrc
    have hload : s.load (some n) (bufferAddr (s.seq n).wp i) = (s.byteAt (bufferAddr (s.seq n).wp i), s) := by
      rw [State.load, bufferAddr, hrace]
      rfl
    rw [e, memRead, bufferAddr, hread, if_pos rfl, ← bufferAddr, hload]
    simp [State.writeByteAt, readsFrom, hsrc, State.logMem]

/-- A load step, of a byte that memory admits and no race has. -/
theorem goes_load {i : Nat} {next : St} (hshape : (s.seq n).shape s.cfg = .load i next) (hq : s.CtlQuiet (s.seq n).ctlid)
    (hadm : (s.seq n).wsrc = .mem → s.admits .read ((s.seq n).wp.toNat + i) = true ∧
      s.readRaces (some n) ((s.seq n).wp.toNat + i) = false) :
    ∃ t, Goes n ds s ds t [.op (.putData (s.writeByteAt n i))] (readsFrom n (s.seq n) i [s.writeByteAt n i]) [] ∧
      t.seq n = { s.seq n with st := next } ∧ t.ctl (s.seq n).ctlid = (s.ctl (s.seq n).ctlid).load (s.writeByteAt n i) := by
  rcases putStep_cases n i next s with ⟨hnone, -⟩ | ⟨b, u, hw, ⟨hb, -⟩ | ⟨-, e⟩⟩
  · simp [writeByte_quiet hadm] at hnone
  · simp [hq.1] at hb
  · cases (writeByte_quiet hadm).symm.trans hw
    have hseq (m) : State.seq { s with mh := s.mh ++ readsFrom n (s.seq n) i [s.writeByteAt n i] } m = s.seq m := rfl
    refine ⟨_, .of_turn (eagerTurn_seq (Sequencer.active_of_shape hshape (by simp)) hq) ((seqStep_of_shape hshape).trans e)
      ?_ ?_ (fun _ => rfl) ?_ rfl rfl rfl rfl, ?_, ?_⟩
    all_goals simp +contextual [State.goto, TraceItem.eager, hseq]

/-- A command step: the command is in flight, and the sequencer waits. -/
theorem goes_issue {c : Cmd} {next : St} (hshape : (s.seq n).shape s.cfg = .command c next)
    (hq : s.CtlQuiet (s.seq n).ctlid) (hdir : c.dir = (s.ctl (s.seq n).ctlid).rw) :
    ∃ t, Goes n ds s ds t [.op (.issueCommand c)] [] [] ∧ t.seq n = { s.seq n with st := next, tc := 0 } ∧
      t.ctl (s.seq n).ctlid = (s.ctl (s.seq n).ctlid).issue c := by
  rcases cmdStep_cases n c next s with ⟨hb, -⟩ | ⟨-, hne, -⟩ | ⟨-, -, e⟩
  · simp [hq.1] at hb
  · exact absurd hdir hne
  · refine ⟨_, .of_turn (eagerTurn_seq (Sequencer.active_of_shape hshape (by simp)) hq) ((seqStep_of_shape hshape).trans e)
      ?_ ?_ ?_ ?_ rfl rfl rfl rfl, ?_, ?_⟩
    all_goals simp +contextual [TraceItem.eager, storeAll]

/-- A command completes with the next draw. -/
theorem goes_complete {c : Cmd} {e : BusErr} {d : Byte} (hst : (s.seq n).st ≠ .idle)
    (hi : (s.ctl (s.seq n).ctlid).infl = some c) :
    ∃ t, Goes n ((e, d) :: ds) s ds t [] [] [] ∧ t.seq n = s.seq n ∧
      t.ctl (s.seq n).ctlid = (s.ctl (s.seq n).ctlid).complete c e d := by
  obtain ⟨hctl, hh, -, hseq, hmem, ⟨hcfg, hadm, -⟩, hmh, hhh⟩ := completeCommand_effect (e := e) (d := d) hi
  have hraced : (completeCommand (s.seq n).ctlid e d s).raced = s.raced := by rw [completeCommand_of_inFlight hi]; rfl
  exact ⟨_, .of_turn (eagerTurn_complete hst hi) rfl (by simp [hh]) (by simp [hmh]) hmem (fun m _ => hseq m)
    hraced hcfg hadm hhh, hseq n, hctl⟩

/-- An idle poll. -/
theorem goes_poll {q : Sequencer} (hshape : (s.seq n).shape s.cfg = .poll q) (hq : s.CtlQuiet (s.seq n).ctlid) :
    ∃ t, Goes n ds s ds t [.wait] [] [] ∧ t.seq n = q ∧ t.ctl (s.seq n).ctlid = s.ctl (s.seq n).ctlid := by
  rcases pollStep_cases n (fun _ => q) s with ⟨-, e⟩ | ⟨hb, -⟩ | ⟨hb, -⟩
  · refine ⟨_, .of_turn (eagerTurn_seq (Sequencer.active_of_shape hshape (by simp)) hq) ((seqStep_of_shape hshape).trans e)
      ?_ ?_ ?_ ?_ rfl rfl rfl rfl, ?_, ?_⟩
    all_goals simp +contextual [TraceItem.eager, storeAll]
  · simp [hq.1] at hb
  · simp [hq.1] at hb

/-- A check of a known status. -/
theorem goes_check {q : Sequencer} {e : BusErr} (hshape : (s.seq n).shape s.cfg = .check q)
    (hq : s.CtlQuiet (s.seq n).ctlid) (he : (s.ctl (s.seq n).ctlid).err = some e) :
    ∃ t, Goes n ds s ds t [.op (.getError e)] [] [] ∧ t.ctl (s.seq n).ctlid = s.ctl (s.seq n).ctlid ∧
      (e = .none → t.seq n = q) ∧ (e = .error → t.seq n = { s.seq n with cause := .busError, st := .doneFail }) := by
  obtain ⟨e', u, hread, hstep⟩ := errStep_cases n (fun _ => q) s
  rw [portGetError, State.handleOf_inst, Controller.shownErr_idle _ hq.1, he] at hread
  cases hread
  have hturn := eagerTurn_seq (ds := ds) (Sequencer.active_of_shape hshape (by simp)) hq
  rcases hstep with ⟨rfl, hstep⟩ | ⟨rfl, hstep⟩
  · refine ⟨_, .of_turn hturn ((seqStep_of_shape hshape).trans hstep) ?_ ?_ ?_ ?_ rfl rfl rfl rfl, ?_, ?_, ?_⟩
    all_goals simp +contextual [fail, TraceItem.eager, storeAll]
  · refine ⟨_, .of_turn hturn ((seqStep_of_shape hshape).trans hstep) ?_ ?_ ?_ ?_ rfl rfl rfl rfl, ?_, ?_, ?_⟩
    all_goals simp +contextual [TraceItem.eager, storeAll]

/-- A pull of a known byte, to a byte of memory that is admitted and in no race. -/
theorem goes_pull {i : Nat} {q : Sequencer} {d : Byte} (hshape : (s.seq n).shape s.cfg = .pull i q)
    (hq : s.CtlQuiet (s.seq n).ctlid) (hd : (s.ctl (s.seq n).ctlid).data = some d)
    (hadm : s.admits .write ((s.seq n).rp.toNat + i) = true) (hrace : s.writeRaces (some n) ((s.seq n).rp.toNat + i) = false) :
    ∃ t, Goes n ds s ds t [.op (.getData d)] (writeEvents n [((s.seq n).rp.toNat + i, d)]) [((s.seq n).rp.toNat + i, d)] ∧
      t.seq n = q ∧ t.ctl (s.seq n).ctlid = s.ctl (s.seq n).ctlid := by
  rcases getStep_cases n i (fun _ => q) s with ⟨hrefused, -⟩ | ⟨-, b, u, hread, e⟩
  · simp [bufferAddr, hadm] at hrefused
  · rw [portGetData, State.handleOf_inst, Controller.shownData_idle _ hq.1, hd] at hread
    cases hread
    rw [State.store, bufferAddr, show State.writeRaces (s.logPort (.inst n) (.getData d)) = s.writeRaces from rfl, hrace] at e
    refine ⟨_, .of_turn (eagerTurn_seq (Sequencer.active_of_shape hshape (by simp)) hq) ((seqStep_of_shape hshape).trans e)
      ?_ ?_ ?_ ?_ rfl rfl rfl rfl, ?_, ?_⟩
    all_goals simp +contextual [TraceItem.eager, storeAll, writeEvents]

/-- A sentinel write, to a byte of memory that is admitted and in no race. -/
theorem goes_fill {a : Nat} {q : Sequencer} (hshape : (s.seq n).shape s.cfg = .fill a q) (hq : s.CtlQuiet (s.seq n).ctlid)
    (hadm : s.admits .write a = true) (hrace : s.writeRaces (some n) a = false) :
    ∃ t, Goes n ds s ds t [] (writeEvents n [(a, s.cfg.sentinel)]) [(a, s.cfg.sentinel)] ∧ t.seq n = q ∧
      t.ctl (s.seq n).ctlid = s.ctl (s.seq n).ctlid := by
  rcases sentinelStep_cases n a (fun _ => q) s with ⟨hrefused, -⟩ | ⟨-, e⟩
  · simp [hadm] at hrefused
  · rw [State.store, hrace] at e
    refine ⟨_, .of_turn (eagerTurn_seq (Sequencer.active_of_shape hshape (by simp)) hq) ((seqStep_of_shape hshape).trans e)
      ?_ ?_ ?_ ?_ rfl rfl rfl rfl, ?_, ?_⟩
    all_goals simp +contextual [storeAll, writeEvents]

/-- An internal step. -/
theorem goes_move {q : Sequencer} (hshape : (s.seq n).shape s.cfg = .move q) (hq : s.CtlQuiet (s.seq n).ctlid) :
    ∃ t, Goes n ds s ds t [] [] [] ∧ t.seq n = q ∧ t.ctl (s.seq n).ctlid = s.ctl (s.seq n).ctlid := by
  refine ⟨_, .of_turn (eagerTurn_seq (Sequencer.active_of_shape hshape (by simp)) hq) (seqStep_of_shape hshape)
    ?_ ?_ ?_ ?_ rfl rfl rfl rfl, ?_, ?_⟩
  all_goals simp +contextual [storeAll]

end

end Sys2Proof.Machine

namespace Sys2Proof.Machine

/-! ## The transfer engine follows the reference `Transfer()` (rule R141) -/

/-- The registers of a sequencer that a transfer leaves as they are, the others put aside: its state, `S.I`, `S.TC`, `S.CAUSE`. -/
def Sequencer.request (q : Sequencer) : Sequencer := { q with st := .idle, i := 0, tc := 0, cause := .none }

/-- Where a part of a transfer has ended: on success as `goal` says, on an abort in `DONE_FAIL`, else in a busy-wait. -/
def Ends (n : Nat) (r : RefRun) (es : List (BusErr × Byte)) (t : State) (goal : State → Prop) : Prop :=
  match r.ending with
  | .success => es = r.rest ∧ t.CtlQuiet (t.seq n).ctlid ∧ goal t
  | .abort c => es = r.rest ∧ t.CtlQuiet (t.seq n).ctlid ∧ (t.seq n).st = .doneFail ∧ (t.seq n).cause = c
  | .hang => (t.seq n).st.isPoll = true ∧ (t.ctl (t.seq n).ctlid).busy = true

/-- From `s` with draws `ds` the machine does what the run does, with these memory events, and ends as it does. -/
def Follows (n : Nat) (ds : List (BusErr × Byte)) (s : State) (r : RefRun) (events : List MemEvent)
    (goal : State → Prop) : Prop :=
  ∃ es t, Goes n ds s es t r.trace events r.stored ∧ (t.seq n).request = (s.seq n).request ∧ Ends n r es t goal

section
variable {n : Nat} {ds es : List (BusErr × Byte)} {s t u : State}

/-- The controller of an instance is that of its request. -/
theorem ctl_ctlid_of_request {k : Controller} (hreq : (t.seq n).request = (s.seq n).request)
    (h : t.ctl (s.seq n).ctlid = k) : t.ctl (t.seq n).ctlid = k := by
  rw [show (t.seq n).ctlid = (s.seq n).ctlid from (congrArg Sequencer.ctlid hreq :)]
  exact h

/-- One part, and after its success the next. -/
theorem Follows.andThen {r : RefRun} {f : List (BusErr × Byte) → RefRun} {events events' all : List MemEvent}
    {goal goal' : State → Prop} (h : Follows n ds s r events goal)
    (hnext : ∀ t, r.ending = .success → Goes n ds s r.rest t r.trace events r.stored →
      (t.seq n).request = (s.seq n).request → t.CtlQuiet (t.seq n).ctlid → goal t →
      Follows n r.rest t (f r.rest) events' goal')
    (hall : all = if r.ending = .success then events ++ events' else events) :
    Follows n ds s (r.andThen f) all goal' := by
  obtain ⟨es, t, hgoes, hreq, hends⟩ := h
  unfold Ends at hends
  unfold RefRun.andThen
  cases hend : r.ending with
  | success =>
    rw [hend] at hends
    obtain ⟨rfl, hquiet, hgoal⟩ := hends
    obtain ⟨fs, u, hgoes', hreq', hends'⟩ := hnext t hend hgoes hreq hquiet hgoal
    rw [if_pos hend] at hall
    exact ⟨fs, u, hall ▸ hgoes.trans hgoes', hreq'.trans hreq, hends'⟩
  | abort | hang =>
    rw [if_neg (by simp [hend])] at hall
    exact ⟨es, t, hall ▸ hgoes, hreq, by simpa only [Ends, hend] using hends⟩

theorem Follows.mono {r : RefRun} {events : List MemEvent} {goal goal' : State → Prop} (h : Follows n ds s r events goal)
    (hgoal : r.ending = .success → ∀ t, goal t → goal' t) : Follows n ds s r events goal' := by
  obtain ⟨es, t, hgoes, hreq, hends⟩ := h
  refine ⟨es, t, hgoes, hreq, ?_⟩
  unfold Ends at hends ⊢
  cases hend : r.ending <;> rw [hend] at hends
  case success => exact ⟨hends.1, hends.2.1, hgoal hend t hends.2.2⟩
  all_goals exact hends

/-- Steps that go before a run. -/
theorem Goes.follows {l : List TraceItem} {events events' : List MemEvent} {stored : List (Nat × Byte)} {r : RefRun}
    {goal : State → Prop} (hgoes : Goes n ds s es t l events stored) (hreq : (t.seq n).request = (s.seq n).request)
    (h : Follows n es t r events' goal) :
    Follows n ds s ⟨l ++ r.trace, stored ++ r.stored, r.ending, r.rest⟩ (events ++ events') goal := by
  obtain ⟨fs, u, hgoes', hreq', hends⟩ := h
  exact ⟨fs, u, hgoes.trans hgoes', hreq'.trans hreq, hends⟩

/-- A check of a known status, and what it decides. -/
theorem follows_check {q : Sequencer} {e : BusErr} (hshape : (s.seq n).shape s.cfg = .check q)
    (hreq : q.request = (s.seq n).request) (hq : s.CtlQuiet (s.seq n).ctlid) (he : (s.ctl (s.seq n).ctlid).err = some e) :
    Follows n ds s ⟨[.op (.getError e)], [], .ofStatus e, ds⟩ []
      (fun t => t.seq n = q ∧ t.ctl (t.seq n).ctlid = s.ctl (s.seq n).ctlid) := by
  obtain ⟨t, hgoes, hctl, hok, hfail⟩ := goes_check (ds := ds) hshape hq he
  cases e with
  | none =>
    have hseq := hok rfl
    have hctl : t.ctl (t.seq n).ctlid = s.ctl (s.seq n).ctlid := by
      rw [hseq, show q.ctlid = (s.seq n).ctlid from (congrArg Sequencer.ctlid hreq :), hctl]
    exact ⟨ds, t, hgoes, by rw [hseq, hreq], rfl, by rw [State.CtlQuiet, hctl]; exact hq, hseq, hctl⟩
  | error =>
    have hseq := hfail rfl
    exact ⟨ds, t, hgoes, by rw [hseq]; rfl, rfl, by rw [State.CtlQuiet, hseq, hctl]; exact hq, by rw [hseq], by rw [hseq]⟩

/-! ### The buffers -/

/-- The write byte with index `i` can be loaded: where it comes from memory, memory admits it and no race has it. -/
def State.Loadable (s : State) (n i : Nat) : Prop :=
  (s.seq n).wsrc = .mem → s.admits .read ((s.seq n).wp.toNat + i) = true ∧
    s.readRaces (some n) ((s.seq n).wp.toNat + i) = false

/-- The byte can be stored to: memory admits it and no race has it. -/
def State.Storable (s : State) (n a : Nat) : Prop := s.admits .write a = true ∧ s.writeRaces (some n) a = false

section
variable {l : List TraceItem} {events : List MemEvent} {stored : List (Nat × Byte)}

theorem Goes.admits (h : Goes n ds s es t l events stored) (k : Access) (a : Nat) : t.admits k a = s.admits k a := by
  rw [State.admits, State.admits, h.cfg, h.admission]

theorem Goes.writeRaces (h : Goes n ds s es t l events stored) (a : Nat) :
    t.writeRaces (some n) a = s.writeRaces (some n) a := by
  rw [Bool.eq_iff_iff, State.writeRaces_iff, State.writeRaces_iff, h.cfg, State.racedFor, State.racedFor, h.raced]
  refine or_congr Iff.rfl (exists_congr fun m => and_congr_right fun hm => ?_)
  rw [h.others m fun hmn => by simp [isOther, hmn] at hm]

theorem Goes.readRaces (h : Goes n ds s es t l events stored) (a : Nat) :
    t.readRaces (some n) a = s.readRaces (some n) a := by
  rw [Bool.eq_iff_iff, State.readRaces_iff, State.readRaces_iff, h.cfg, State.racedFor, State.racedFor, h.raced]
  refine or_congr Iff.rfl (exists_congr fun m => and_congr_right fun hm => ?_)
  rw [h.others m fun hmn => by simp [isOther, hmn] at hm]

theorem Goes.loadable {i : Nat} (h : Goes n ds s es t l events stored) (hreq : (t.seq n).request = (s.seq n).request)
    (hl : s.Loadable n i) : t.Loadable n i := by
  have hwp : (t.seq n).wp = (s.seq n).wp := (congrArg Sequencer.wp hreq :)
  have hwsrc : (t.seq n).wsrc = (s.seq n).wsrc := (congrArg Sequencer.wsrc hreq :)
  rw [State.Loadable, hwp, hwsrc, h.admits, h.readRaces]
  exact hl

theorem Goes.storable {a : Nat} (h : Goes n ds s es t l events stored) (hs : s.Storable n a) : t.Storable n a := by
  rw [State.Storable, h.admits, h.writeRaces]
  exact hs

/-- Where nothing is stored the write bytes are as before. -/
theorem Goes.writeByteAt (h : Goes n ds s es t l events []) (hreq : (t.seq n).request = (s.seq n).request) (i : Nat) :
    t.writeByteAt n i = s.writeByteAt n i := by
  have hwp : (t.seq n).wp = (s.seq n).wp := (congrArg Sequencer.wp hreq :)
  have hwsrc : (t.seq n).wsrc = (s.seq n).wsrc := (congrArg Sequencer.wsrc hreq :)
  have hwk : (t.seq n).wk = (s.seq n).wk := (congrArg Sequencer.wk hreq :)
  rw [State.writeByteAt, State.writeByteAt, hwp, hwsrc, hwk, h.memory]
  rfl

theorem readsFrom_of_request {q q' : Sequencer} (h : q'.request = q.request) (n i : Nat) (loaded : List Byte) :
    readsFrom n q' i loaded = readsFrom n q i loaded := by
  have hwp : q'.wp = q.wp := (congrArg Sequencer.wp h :)
  have hwsrc : q'.wsrc = q.wsrc := (congrArg Sequencer.wsrc h :)
  rw [readsFrom, readsFrom, hwp, hwsrc]

end

/-! ### A command and its wait -/

/-- The wait for a command in flight that the next draw completes. -/
theorem goes_wait {c : Cmd} {e : BusErr} {d : Byte} {q : Sequencer} (hshape : (s.seq n).shape s.cfg = .poll q)
    (hreq : q.request = (s.seq n).request) (hi : (s.ctl (s.seq n).ctlid).infl = some c) :
    ∃ t, Goes n ((e, d) :: ds) s ds t [.wait] [] [] ∧ t.seq n = q ∧ t.CtlQuiet (t.seq n).ctlid ∧
      t.ctl (t.seq n).ctlid = (s.ctl (s.seq n).ctlid).complete c e d := by
  obtain ⟨t, hgoes, hseq, hctl⟩ := goes_complete (ds := ds) (e := e) (d := d) (Sequencer.active_of_shape hshape (by simp)) hi
  obtain ⟨hb, hi', -⟩ := Controller.complete_idle c e d (s.ctl (s.seq n).ctlid)
  obtain ⟨u, hgoes', hseq', hctl'⟩ := goes_poll (ds := ds) (by rw [hseq, hgoes.cfg]; exact hshape)
    (by rw [State.CtlQuiet, hseq, hctl]; exact ⟨hb, hi'⟩ : t.CtlQuiet (t.seq n).ctlid)
  have hid : (u.seq n).ctlid = (s.seq n).ctlid := by rw [hseq']; exact (congrArg Sequencer.ctlid hreq :)
  have hctlu : u.ctl (u.seq n).ctlid = (s.ctl (s.seq n).ctlid).complete c e d := by
    rw [hseq] at hctl'
    rw [hid, hctl', hctl]
  exact ⟨u, hgoes.trans hgoes', hseq', by rw [State.CtlQuiet, hctlu]; exact ⟨hb, hi'⟩, hctlu⟩

/-! ### A step of the write phase -/

/-- The registers `q` begin a step of the write phase that loads the byte with index `i`, issues `c` and waits, and leaves `q'`. -/
def Sequencer.Sends (p : Params) (q : Sequencer) (i : Nat) (c : Cmd) (q' : Sequencer) : Prop :=
  ∃ put cmd poll : St, q.shape p = .address .write put ∧ ({ q with st := put } : Sequencer).shape p = .load i cmd ∧
    ({ q with st := cmd } : Sequencer).shape p = .command c poll ∧
    ({ q with st := poll, tc := 0 } : Sequencer).shape p = .poll q' ∧ poll.isPoll = true ∧
    q'.request = q.request

/-- A step of the write phase up to its command in flight. -/
theorem goes_send {i : Nat} {c : Cmd} {q' : Sequencer} (h : (s.seq n).Sends s.cfg i c q') (hc : c.dir = .write)
    (hq : s.CtlQuiet (s.seq n).ctlid) (hl : s.Loadable n i) :
    ∃ t, Goes n ds s ds t [.op (.setSlaveAddress (s.seq n).sa .write), .op (.putData (s.writeByteAt n i)), .op (.issueCommand c)]
        (readsFrom n (s.seq n) i [s.writeByteAt n i]) [] ∧
      (t.seq n).shape t.cfg = .poll q' ∧ (t.seq n).request = (s.seq n).request ∧ q'.request = (s.seq n).request ∧
      (t.seq n).st.isPoll = true ∧
      (t.ctl (t.seq n).ctlid).busy = true ∧ (t.ctl (t.seq n).ctlid).infl = some c := by
  obtain ⟨put, cmd, poll, hput, hcmd, hpoll, hwait, hisPoll, hreq'⟩ := h
  obtain ⟨t, ht, htseq, htctl⟩ := goes_address (ds := ds) hput hq
  have htreq : (t.seq n).request = (s.seq n).request := by rw [htseq]; rfl
  have htquiet : t.CtlQuiet (t.seq n).ctlid := by rw [State.CtlQuiet, htseq, htctl]; exact hq
  obtain ⟨u, hu, huseq, huctl⟩ := goes_load (ds := ds) (s := t) (by rw [htseq, ht.cfg]; exact hcmd) htquiet
    (ht.loadable htreq hl)
  rw [htseq] at huseq huctl
  rw [htctl] at huctl
  obtain ⟨v, hv, hvseq, hvctl⟩ := goes_issue (ds := ds) (s := u) (by rw [huseq, hu.cfg, ht.cfg]; exact hpoll)
    (by rw [State.CtlQuiet, huseq, huctl]; exact hq) (by rw [huseq, huctl]; exact hc)
  rw [huseq] at hvseq hvctl
  have hgoes := (ht.trans hu).trans hv
  rw [ht.writeByteAt htreq, readsFrom_of_request htreq] at hgoes
  refine ⟨v, by simpa using hgoes, by rw [hvseq, hgoes.cfg]; exact hwait, by rw [hvseq]; rfl, hreq', by rw [hvseq]; exact hisPoll,
    ?_, ?_⟩ <;>
    rw [hvseq, hvctl] <;> rfl

/-- A step of the write phase that checks no status. -/
theorem follows_send_unchecked {i : Nat} {c : Cmd} {q' : Sequencer} (h : (s.seq n).Sends s.cfg i c q') (hc : c.dir = .write)
    (hq : s.CtlQuiet (s.seq n).ctlid) (hl : s.Loadable n i) :
    Follows n ds s (refSend false (s.seq n).sa (s.writeByteAt n i) c ds) (readsFrom n (s.seq n) i [s.writeByteAt n i])
      (fun t => t.seq n = q') := by
  obtain ⟨t, ht, htwait, htreq, hreq', htpoll, htbusy, htinfl⟩ := goes_send (ds := ds) h hc hq hl
  match ds with
  | [] => exact ⟨[], t, ht, htreq, htpoll, htbusy⟩
  | (e, d) :: ds =>
    obtain ⟨u, hu, huseq, huquiet, -⟩ := goes_wait (ds := ds) (e := e) (d := d) htwait (hreq'.trans htreq.symm) htinfl
    have hgoes := ht.trans hu
    simp only [List.append_nil] at hgoes
    exact ⟨ds, u, hgoes, by rw [huseq]; exact hreq', rfl, huquiet, huseq⟩

/-- A checked step of the write phase. -/
theorem follows_send_checked {i : Nat} {c : Cmd} {q' q'' : Sequencer} (h : (s.seq n).Sends s.cfg i c q') (hc : c.dir = .write)
    (hcheck : q'.shape s.cfg = .check q'') (hreq'' : q''.request = q'.request)
    (hq : s.CtlQuiet (s.seq n).ctlid) (hl : s.Loadable n i) :
    Follows n ds s (refSend true (s.seq n).sa (s.writeByteAt n i) c ds) (readsFrom n (s.seq n) i [s.writeByteAt n i])
      (fun t => t.seq n = q'') := by
  obtain ⟨t, ht, htwait, htreq, hreq', htpoll, htbusy, htinfl⟩ := goes_send (ds := ds) h hc hq hl
  match ds with
  | [] => exact ⟨[], t, ht, htreq, htpoll, htbusy⟩
  | (e, d) :: ds =>
    obtain ⟨u, hu, huseq, huquiet, huctl⟩ := goes_wait (ds := ds) (e := e) (d := d) htwait (hreq'.trans htreq.symm) htinfl
    have hgoes := ht.trans hu
    have hfollows := hgoes.follows (by rw [huseq]; exact hreq') ((follows_check (ds := ds) (e := e) (q := q'')
      (by rw [huseq, hgoes.cfg]; exact hcheck) (by rw [huseq]; exact hreq'') huquiet (by rw [huctl]; rfl)).mono fun _ _ h => h.1)
    simp only [List.append_nil] at hfollows
    exact hfollows

end

end Sys2Proof.Machine

namespace Sys2Proof.Machine

/-! ### The write phase of a transfer -/

section
variable {n : Nat} {ds es : List (BusErr × Byte)} {s t u : State}

theorem tracePuts_refSend (checked : Bool) (sa : SlaveAddr) (b : Byte) (c : Cmd) (ds : List (BusErr × Byte)) :
    tracePuts (refSend checked sa b c ds).trace = [b] := by
  cases ds <;> cases checked <;> rfl

theorem stored_refSend (checked : Bool) (sa : SlaveAddr) (b : Byte) (c : Cmd) (ds : List (BusErr × Byte)) :
    (refSend checked sa b c ds).stored = [] := by
  cases ds <;> cases checked <;> rfl

theorem readsFrom_cons (n : Nat) (q : Sequencer) (i : Nat) (b : Byte) (bs : List Byte) :
    readsFrom n q i (b :: bs) = readsFrom n q i [b] ++ readsFrom n q (i + 1) bs := by
  unfold readsFrom
  cases q.wsrc with
  | const => rfl
  | mem => simp [List.mapIdx_cons, Nat.add_assoc, Nat.add_comm 1]

/-- The steps of the write phase, each from its address state on. -/
theorem Sequencer.sends_single {q : Sequencer} (p : Params) (h : q.st = .w1Sa) :
    q.Sends p 0 .singleSend { q with st := .w1Err, tc := 0 } :=
  ⟨.w1Put, .w1Cmd, .w1Poll, by rw [Sequencer.shape, h], rfl, rfl, rfl, rfl, rfl⟩

theorem Sequencer.sends_start {q : Sequencer} (p : Params) (h : q.st = .wsSa) :
    q.Sends p 0 .burstSendStart (afterFirst q.wn .wmSa .wfSa { q with st := .wsPoll, tc := 0 }) :=
  ⟨.wsPut, .wsCmd, .wsPoll, by rw [Sequencer.shape, h], rfl, rfl, rfl, rfl, rfl⟩

theorem Sequencer.sends_continue {q : Sequencer} (p : Params) (h : q.st = .wmSa) :
    q.Sends p q.i.toNat .burstSendContinue { q with st := .wmErr, tc := 0 } :=
  ⟨.wmPut, .wmCmd, .wmPoll, by rw [Sequencer.shape, h], rfl, rfl, rfl, rfl, rfl⟩

theorem Sequencer.sends_finish {q : Sequencer} (p : Params) (h : q.st = .wfSa) :
    q.Sends p (lastIndex q.wn) .burstSendFinish { q with st := .wfErr, tc := 0 } :=
  ⟨.wfPut, .wfCmd, .wfPoll, by rw [Sequencer.shape, h], rfl, rfl, rfl, rfl, rfl⟩

/-- Where a write phase ends (rule R153). -/
def State.WriteDone (n : Nat) (t : State) : Prop := (t.seq n).st = if (t.seq n).rn = 0 then .doneOk else .rphase

/-- A step of the write phase and then the rest of the phase. -/
theorem Follows.andThen_write {checked : Bool} {i : Nat} {b : Byte} {c : Cmd} {f : List (BusErr × Byte) → RefRun} {goal goal' : State → Prop}
    (h : Follows n ds s (refSend checked (s.seq n).sa b c ds) (readsFrom n (s.seq n) i [b]) goal)
    (hnext : ∀ es t, Goes n ds s es t (refSend checked (s.seq n).sa b c ds).trace (readsFrom n (s.seq n) i [b]) [] →
      (t.seq n).request = (s.seq n).request → t.CtlQuiet (t.seq n).ctlid → goal t →
      Follows n es t (f es) (readsFrom n (t.seq n) (i + 1) (tracePuts (f es).trace)) goal') :
    Follows n ds s ((refSend checked (s.seq n).sa b c ds).andThen f)
      (readsFrom n (s.seq n) i (tracePuts ((refSend checked (s.seq n).sa b c ds).andThen f).trace)) goal' := by
  refine h.andThen (events' := readsFrom n (s.seq n) (i + 1) (tracePuts (f (refSend checked (s.seq n).sa b c ds).rest).trace))
    (fun t hend hgoes hreq hquiet hgoal => ?_) ?_
  · rw [stored_refSend] at hgoes
    rw [← readsFrom_of_request hreq]
    exact hnext _ t hgoes hreq hquiet hgoal
  · rw [RefRun.andThen]
    cases hend : (refSend checked (s.seq n).sa b c ds).ending
    case success => simp [tracePuts_refSend, readsFrom_cons n _ i b (tracePuts _)]
    all_goals simp [tracePuts_refSend]

/-- The bytes of a burst after its first, from index `i` on. -/
theorem follows_writeRest (k : Nat) {i : Nat} (hk : i + (k + 1) = (s.seq n).wn.toNat) (hi : (s.seq n).i.toNat = i)
    (hst : (s.seq n).st = if i + 2 ≤ (s.seq n).wn.toNat then .wmSa else .wfSa) (hq : s.CtlQuiet (s.seq n).ctlid)
    (hl : ∀ j, j < (s.seq n).wn.toNat → s.Loadable n j) :
    Follows n ds s (refWriteRest (s.seq n).sa ((List.range' i (k + 1)).map (s.writeByteAt n)) ds)
      (readsFrom n (s.seq n) i (tracePuts (refWriteRest (s.seq n).sa ((List.range' i (k + 1)).map (s.writeByteAt n)) ds).trace))
      (State.WriteDone n) := by
  induction k generalizing i ds s with
  | zero =>
    have hlast : lastIndex (s.seq n).wn = i := by rw [lastIndex]; omega
    rw [if_neg (by omega)] at hst
    have hsends := Sequencer.sends_finish s.cfg hst
    rw [hlast] at hsends
    change Follows n ds s (refSend true (s.seq n).sa (s.writeByteAt n i) .burstSendFinish ds)
      (readsFrom n (s.seq n) i (tracePuts (refSend true (s.seq n).sa (s.writeByteAt n i) .burstSendFinish ds).trace)) _
    rw [tracePuts_refSend]
    refine (follows_send_checked hsends rfl rfl rfl hq (hl i (by omega))).mono fun _ t ht => ?_
    rw [State.WriteDone, ht]
    rfl
  | succ k ih =>
    rw [if_pos (by omega)] at hst
    have hsends := Sequencer.sends_continue s.cfg hst
    rw [hi] at hsends
    have hstep := follows_send_checked (ds := ds) hsends rfl rfl rfl hq (hl i (by omega))
    rw [List.range'_succ, List.range'_succ, List.map_cons, List.map_cons]
    refine hstep.andThen_write fun es t hgoes hreq hquiet hseq => ?_
    have hwn : (t.seq n).wn = (s.seq n).wn := (congrArg Sequencer.wn hreq :)
    have hsa : (t.seq n).sa = (s.seq n).sa := (congrArg Sequencer.sa hreq :)
    have hbytes : t.writeByteAt n = s.writeByteAt n := funext (hgoes.writeByteAt hreq)
    have hnext := ih (ds := es) (s := t) (i := i + 1) (by rw [hwn]; omega)
      (by rw [hseq]; exact (toNat_ofNat_succ_of_lt (w := (s.seq n).i) (v := (s.seq n).wn) (by omega)).trans (by rw [hi])) (by rw [hwn, hseq, ← hi]; rfl) hquiet
      (fun j hj => hgoes.loadable hreq (hl j (by rwa [hwn] at hj)))
    rw [hsa, hbytes, List.range'_succ, List.map_cons] at hnext
    exact hnext

/-- The write phase, from its first address state on. -/
theorem follows_write (hwn : 1 ≤ (s.seq n).wn.toNat) (hst : (s.seq n).st = if (s.seq n).wn.toNat = 1 then .w1Sa else .wsSa)
    (hq : s.CtlQuiet (s.seq n).ctlid) (hl : ∀ j, j < (s.seq n).wn.toNat → s.Loadable n j) :
    Follows n ds s (refWrite (s.seq n).sa ((List.range' 0 (s.seq n).wn.toNat).map (s.writeByteAt n)) ds)
      (readsFrom n (s.seq n) 0
        (tracePuts (refWrite (s.seq n).sa ((List.range' 0 (s.seq n).wn.toNat).map (s.writeByteAt n)) ds).trace))
      (State.WriteDone n) := by
  obtain ⟨k, hk⟩ : ∃ k, (s.seq n).wn.toNat = k + 1 := ⟨_, (Nat.sub_add_cancel hwn).symm⟩
  rw [hk] at hst ⊢
  cases k with
  | zero =>
    change Follows n ds s (refSend true (s.seq n).sa (s.writeByteAt n 0) .singleSend ds)
      (readsFrom n (s.seq n) 0 (tracePuts (refSend true (s.seq n).sa (s.writeByteAt n 0) .singleSend ds).trace)) _
    rw [tracePuts_refSend]
    refine (follows_send_checked (Sequencer.sends_single s.cfg hst) rfl rfl rfl hq (hl 0 (by omega))).mono fun _ t ht => ?_
    rw [State.WriteDone, ht]
    rfl
  | succ k =>
    rw [if_neg (by omega)] at hst
    have hstep := follows_send_unchecked (ds := ds) (Sequencer.sends_start s.cfg hst) rfl hq (hl 0 (by omega))
    rw [List.range'_succ, List.range'_succ, List.map_cons, List.map_cons]
    refine hstep.andThen_write fun es t hgoes hreq hquiet hseq => ?_
    have hwn : (t.seq n).wn = (s.seq n).wn := (congrArg Sequencer.wn hreq :)
    have hsa : (t.seq n).sa = (s.seq n).sa := (congrArg Sequencer.sa hreq :)
    have hbytes : t.writeByteAt n = s.writeByteAt n := funext (hgoes.writeByteAt hreq)
    have hnext := follows_writeRest (ds := es) (s := t) (n := n) k (i := 1) (by rw [hwn]; omega) (by rw [hseq]; rfl)
      (by rw [hwn, hseq]; rfl) hquiet (fun j hj => hgoes.loadable hreq (hl j (by rwa [hwn] at hj)))
    rw [hsa, hbytes, List.range'_succ, List.map_cons] at hnext
    exact hnext

end

end Sys2Proof.Machine

namespace Sys2Proof.Machine

/-! ### The read phase of a transfer -/

section
variable {n : Nat} {ds es : List (BusErr × Byte)} {s t u : State}

theorem writeEvents_andThen (n : Nat) (r : RefRun) (f : List (BusErr × Byte) → RefRun) :
    writeEvents n (r.andThen f).stored =
      if r.ending = .success then writeEvents n r.stored ++ writeEvents n (f r.rest).stored else writeEvents n r.stored := by
  unfold RefRun.andThen
  cases hend : r.ending <;> simp [writeEvents]

/-- A command issued on a quiet controller of its direction, and the wait for it, before any check or pull. -/
theorem goes_command {c : Cmd} {next : St} {q : Sequencer} {e : BusErr} {d : Byte}
    (hshape : (s.seq n).shape s.cfg = .command c next)
    (hwait : ({ s.seq n with st := next, tc := 0 } : Sequencer).shape s.cfg = .poll q) (hreq : q.request = (s.seq n).request)
    (hq : s.CtlQuiet (s.seq n).ctlid) (hdir : c.dir = (s.ctl (s.seq n).ctlid).rw) :
    ∃ t, Goes n ((e, d) :: ds) s ds t [.op (.issueCommand c), .wait] [] [] ∧ t.seq n = q ∧ t.CtlQuiet (t.seq n).ctlid ∧
      t.ctl (t.seq n).ctlid = ((s.ctl (s.seq n).ctlid).issue c).complete c e d := by
  obtain ⟨t, ht, htseq, htctl⟩ := goes_issue (ds := (e, d) :: ds) hshape hq hdir
  obtain ⟨u, hu, huseq, huquiet, huctl⟩ := goes_wait (ds := ds) (e := e) (d := d) (c := c) (s := t) (n := n) (q := q)
    (by rw [htseq, ht.cfg]; exact hwait) (by rw [htseq]; exact hreq) (by rw [htseq, htctl]; rfl)
  rw [htseq, htctl] at huctl
  exact ⟨u, ht.trans hu, huseq, huquiet, huctl⟩

/-- A command that is never completed. -/
theorem follows_command_hang {c : Cmd} {next : St} (hshape : (s.seq n).shape s.cfg = .command c next)
    (hpoll : next.isPoll = true) (hq : s.CtlQuiet (s.seq n).ctlid) (hdir : c.dir = (s.ctl (s.seq n).ctlid).rw)
    (goal : State → Prop) : Follows n [] s ⟨[.op (.issueCommand c)], [], .hang, []⟩ [] goal := by
  obtain ⟨t, ht, htseq, htctl⟩ := goes_issue (ds := []) hshape hq hdir
  exact ⟨[], t, ht, by rw [htseq]; rfl, by rw [htseq]; exact hpoll, by rw [htseq, htctl]; rfl⟩

/-- The registers are `q`, and the controller is addressed for reading. -/
def State.ReadsFrom (n : Nat) (q : Sequencer) (t : State) : Prop := t.seq n = q ∧ (t.ctl (t.seq n).ctlid).rw = .read

/-- The address step of a read phase. -/
theorem goes_readAddress {cmd : St} (hshape : (s.seq n).shape s.cfg = .address .read cmd) (hq : s.CtlQuiet (s.seq n).ctlid) :
    ∃ t, Goes n ds s ds t [.op (.setSlaveAddress (s.seq n).sa .read)] [] [] ∧ t.seq n = { s.seq n with st := cmd } ∧
      t.CtlQuiet (t.seq n).ctlid ∧ (t.ctl (t.seq n).ctlid).rw = .read := by
  obtain ⟨t, ht, htseq, htctl⟩ := goes_address (ds := ds) hshape hq
  exact ⟨t, ht, htseq, by rw [State.CtlQuiet, htseq, htctl]; exact hq, by rw [htseq, htctl]; rfl⟩

/-- The registers `q` begin a step of a burst read that issues `c`, waits, pulls the byte with index `i` and leaves `q'`. -/
def Sequencer.Receives (p : Params) (q : Sequencer) (c : Cmd) (i : Nat) (q' : Sequencer) : Prop :=
  ∃ (cmd poll : St) (mid : Sequencer), q.shape p = .address .read cmd ∧
    ({ q with st := cmd } : Sequencer).shape p = .command c poll ∧
    ({ q with st := poll, tc := 0 } : Sequencer).shape p = .poll mid ∧ mid.shape p = .pull i q' ∧ poll.isPoll = true ∧
    mid.request = q.request ∧ q'.request = q.request

/-- A step of a burst read. -/
theorem follows_pull {c : Cmd} {i : Nat} {q' : Sequencer} (h : (s.seq n).Receives s.cfg c i q') (hc : c.dir = .read)
    (hrec : c.receives = true) (hq : s.CtlQuiet (s.seq n).ctlid) (hs : s.Storable n ((s.seq n).rp.toNat + i)) :
    Follows n ds s (refPull (s.seq n).sa c ((s.seq n).rp.toNat + i) ds)
      (writeEvents n (refPull (s.seq n).sa c ((s.seq n).rp.toNat + i) ds).stored) (State.ReadsFrom n q') := by
  obtain ⟨cmd, poll, mid, haddr, hcmd, hwait, hpull, hisPoll, hmid, hreq'⟩ := h
  obtain ⟨t, ht, htseq, htquiet, htrw⟩ := goes_readAddress (ds := ds) haddr hq
  have htreq : (t.seq n).request = (s.seq n).request := by rw [htseq]; rfl
  have htcmd : (t.seq n).shape t.cfg = .command c poll := by rw [htseq, ht.cfg]; exact hcmd
  match ds with
  | [] => exact ht.follows htreq (follows_command_hang htcmd hisPoll htquiet (hc.trans htrw.symm) _)
  | (e, d) :: ds =>
    obtain ⟨u, hu, huseq, huquiet, huctl⟩ := goes_command (ds := ds) (e := e) (d := d) (q := mid) htcmd
      (by rw [htseq, ht.cfg]; exact hwait) (by rw [htseq]; exact hmid) htquiet (hc.trans htrw.symm)
    have hgoes := ht.trans hu
    have hrp : (u.seq n).rp = (s.seq n).rp := by rw [huseq]; exact (congrArg Sequencer.rp hmid :)
    obtain ⟨v, hv, hvseq, hvctl⟩ := goes_pull (ds := ds) (d := d) (q := q') (i := i) (s := u) (n := n)
      (by rw [huseq, hgoes.cfg]; exact hpull) huquiet (by rw [huctl]; exact if_pos hrec)
      (by rw [hrp]; exact (hgoes.storable hs).1) (by rw [hrp]; exact (hgoes.storable hs).2)
    rw [hrp] at hv
    have hctl := ctl_ctlid_of_request (by rw [hvseq, huseq]; exact hreq'.trans hmid.symm) hvctl
    exact ⟨ds, v, hgoes.trans hv, by rw [hvseq]; exact hreq', rfl, by rw [State.CtlQuiet, hctl]; exact huquiet, hvseq,
      by rw [hctl, huctl]; exact htrw⟩

/-- The close of a burst read. -/
theorem follows_stop (hst : (s.seq n).st = .rpCmd) (hrw : (s.ctl (s.seq n).ctlid).rw = .read) (hq : s.CtlQuiet (s.seq n).ctlid) :
    Follows n ds s (refStop ds) (writeEvents n (refStop ds).stored) (fun t => (t.seq n).st = .doneOk) := by
  have hcmd : (s.seq n).shape s.cfg = .command .burstReceiveStop .rpPoll := by rw [Sequencer.shape, hst]
  match ds with
  | [] => exact follows_command_hang hcmd rfl hq hrw.symm _
  | (e, d) :: ds =>
    obtain ⟨t, ht, htseq, htquiet, htctl⟩ := goes_command (ds := ds) (e := e) (d := d) hcmd rfl rfl hq hrw.symm
    exact ht.follows (by rw [htseq]; rfl) ((follows_check (ds := ds) (e := e) (by rw [htseq]; rfl) (by rw [htseq]; rfl) htquiet
      (by rw [htctl]; rfl)).mono fun _ u hu => by rw [hu.1]; rfl)

/-- The one-byte read. -/
theorem follows_readOne (hst : (s.seq n).st = .r1Sa) (hq : s.CtlQuiet (s.seq n).ctlid)
    (hs : s.Storable n (s.seq n).rp.toNat) :
    Follows n ds s (refReadOne (s.seq n).sa (s.seq n).rp.toNat ds)
      (writeEvents n (refReadOne (s.seq n).sa (s.seq n).rp.toNat ds).stored) (fun t => (t.seq n).st = .doneOk) := by
  obtain ⟨t, ht, htseq, htquiet, htrw⟩ := goes_readAddress (ds := ds) (cmd := .r1Cmd) (by rw [Sequencer.shape, hst]) hq
  have htreq : (t.seq n).request = (s.seq n).request := by rw [htseq]; rfl
  have htcmd : (t.seq n).shape t.cfg = .command .singleReceiveNack .r1Poll := by rw [htseq]; rfl
  match ds with
  | [] => exact ht.follows htreq (follows_command_hang htcmd rfl htquiet htrw.symm _)
  | (e, d) :: ds =>
    obtain ⟨u, hu, huseq, huquiet, huctl⟩ := goes_command (ds := ds) (e := e) (d := d) htcmd rfl rfl htquiet htrw.symm
    have hgoes := ht.trans hu
    have hureq : (u.seq n).request = (s.seq n).request := by rw [huseq, htseq]; rfl
    have hcheck := follows_check (ds := ds) (e := e) (s := u) (n := n) (by rw [huseq]; rfl) (by rw [huseq]; rfl) huquiet
      (by rw [huctl]; rfl)
    cases e with
    | error => exact hgoes.follows hureq (hcheck.mono nofun)
    | none =>
      obtain ⟨es, v, hv, hvreq, hes, hvquiet, hvseq, hvctl⟩ := hcheck
      cases hes
      have hgoes := hgoes.trans hv
      have hrp : (v.seq n).rp = (s.seq n).rp := (congrArg Sequencer.rp (hvreq.trans hureq) :)
      obtain ⟨w, hw, hwseq, hwctl⟩ := goes_pull (ds := ds) (d := d) (i := 0) (s := v) (n := n)
        (by rw [hvseq]; rfl) hvquiet (by rw [hvctl, huctl]; rfl)
        (by rw [hrp]; exact (hgoes.storable hs).1) (by rw [hrp]; exact (hgoes.storable hs).2)
      rw [hrp] at hw
      have hwreq : (w.seq n).request = (v.seq n).request := by rw [hwseq, hvseq]; rfl
      exact ⟨ds, w, hgoes.trans hw, hwreq.trans (hvreq.trans hureq), rfl,
        by rw [State.CtlQuiet, ctl_ctlid_of_request hwreq hwctl]; exact hvquiet, (congrArg Sequencer.st hwseq :)⟩

/-- The steps of a burst read, each from its address state on. -/
theorem Sequencer.receives_start {q : Sequencer} (p : Params) (h : q.st = .rsSa) :
    q.Receives p .burstReceiveStart 0 (afterFirst q.rn .rmSa .rfSa { q with st := .rsGet, tc := 0 }) :=
  ⟨.rsCmd, .rsPoll, _, by rw [Sequencer.shape, h], rfl, rfl, rfl, rfl, rfl, rfl⟩

theorem Sequencer.receives_continue {q : Sequencer} (p : Params) (h : q.st = .rmSa) :
    q.Receives p .burstReceiveContinue q.i.toNat (afterMiddle q.rn .rmSa .rfSa { q with st := .rmGet, tc := 0 }) :=
  ⟨.rmCmd, .rmPoll, _, by rw [Sequencer.shape, h], rfl, rfl, rfl, rfl, rfl, rfl⟩

theorem Sequencer.receives_finish {q : Sequencer} (p : Params) (h : q.st = .rfSa) :
    q.Receives p .burstReceiveFinish (lastIndex q.rn) { q with st := .rpCmd, tc := 0 } :=
  ⟨.rfCmd, .rfPoll, _, by rw [Sequencer.shape, h], rfl, rfl, rfl, rfl, rfl, rfl⟩

/-- The bytes of a burst after its first, from index `i` on. -/
theorem follows_readRest (k : Nat) {i : Nat} (hk : i + (k + 1) = (s.seq n).rn.toNat) (hi : (s.seq n).i.toNat = i)
    (hst : (s.seq n).st = if i + 2 ≤ (s.seq n).rn.toNat then .rmSa else .rfSa) (hq : s.CtlQuiet (s.seq n).ctlid)
    (hs : ∀ j, j < (s.seq n).rn.toNat → s.Storable n ((s.seq n).rp.toNat + j)) :
    Follows n ds s (refReadRest (s.seq n).sa (k + 1) ((s.seq n).rp.toNat + i) ds)
      (writeEvents n (refReadRest (s.seq n).sa (k + 1) ((s.seq n).rp.toNat + i) ds).stored)
      (fun t => (t.seq n).st = .doneOk) := by
  induction k generalizing i ds s with
  | zero =>
    have hlast : lastIndex (s.seq n).rn = i := by rw [lastIndex]; omega
    rw [if_neg (by omega)] at hst
    have hreceives := Sequencer.receives_finish s.cfg hst
    rw [hlast] at hreceives
    exact (follows_pull hreceives rfl rfl hq (hs i (by omega))).andThen
      (fun t _ _ _ hquiet hgoal => follows_stop (by rw [hgoal.1]) hgoal.2 hquiet) (writeEvents_andThen ..)
  | succ k ih =>
    rw [if_pos (by omega)] at hst
    have hreceives := Sequencer.receives_continue s.cfg hst
    rw [hi] at hreceives
    refine (follows_pull hreceives rfl rfl hq (hs i (by omega))).andThen (fun t _ hgoes hreq hquiet hgoal => ?_)
      (writeEvents_andThen n _ (refReadRest (s.seq n).sa (k + 1) ((s.seq n).rp.toNat + i + 1)))
    obtain ⟨hseq, -⟩ := hgoal
    have hrn : (t.seq n).rn = (s.seq n).rn := (congrArg Sequencer.rn hreq :)
    have hsa : (t.seq n).sa = (s.seq n).sa := (congrArg Sequencer.sa hreq :)
    have hrp : (t.seq n).rp = (s.seq n).rp := (congrArg Sequencer.rp hreq :)
    have hnext := ih (s := t) (i := i + 1) (ds := (refPull (s.seq n).sa .burstReceiveContinue ((s.seq n).rp.toNat + i) ds).rest)
      (by rw [hrn]; omega)
      (by rw [hseq]; exact (toNat_ofNat_succ_of_lt (w := (s.seq n).i) (v := (s.seq n).rn) (by omega)).trans (by rw [hi]))
      (by rw [hrn, hseq, ← hi]; rfl) hquiet (fun j hj => by rw [hrp]; exact hgoes.storable (hs j (by rwa [hrn] at hj)))
    rw [hsa, hrp] at hnext
    exact hnext

/-- The read phase, from its first address state on. -/
theorem follows_read (hrn : 1 ≤ (s.seq n).rn.toNat) (hst : (s.seq n).st = if (s.seq n).rn.toNat = 1 then .r1Sa else .rsSa)
    (hq : s.CtlQuiet (s.seq n).ctlid) (hs : ∀ j, j < (s.seq n).rn.toNat → s.Storable n ((s.seq n).rp.toNat + j)) :
    Follows n ds s (refRead (s.seq n).sa (s.seq n).rp.toNat (s.seq n).rn.toNat ds)
      (writeEvents n (refRead (s.seq n).sa (s.seq n).rp.toNat (s.seq n).rn.toNat ds).stored)
      (fun t => (t.seq n).st = .doneOk) := by
  obtain ⟨k, hk⟩ : ∃ k, (s.seq n).rn.toNat = k + 1 := ⟨_, (Nat.sub_add_cancel hrn).symm⟩
  cases k with
  | zero =>
    rw [hk] at hst ⊢
    exact follows_readOne hst hq (hs 0 (by omega))
  | succ k =>
    rw [hk, if_neg (by omega)] at hst
    rw [hk]
    refine (follows_pull (Sequencer.receives_start s.cfg hst) rfl rfl hq (hs 0 (by omega))).andThen
      (fun t _ hgoes hreq hquiet hgoal => ?_)
      (writeEvents_andThen n _ (refReadRest (s.seq n).sa (k + 1) ((s.seq n).rp.toNat + 0 + 1)))
    obtain ⟨hseq, -⟩ := hgoal
    have hrn : (t.seq n).rn = (s.seq n).rn := (congrArg Sequencer.rn hreq :)
    have hsa : (t.seq n).sa = (s.seq n).sa := (congrArg Sequencer.sa hreq :)
    have hrp : (t.seq n).rp = (s.seq n).rp := (congrArg Sequencer.rp hreq :)
    have hnext := follows_readRest (s := t) (n := n) k (i := 1)
      (ds := (refPull (s.seq n).sa .burstReceiveStart ((s.seq n).rp.toNat + 0) ds).rest) (by rw [hrn]; omega)
      (by rw [hseq]; rfl) (by rw [hrn, hseq]; rfl) hquiet
      (fun j hj => by rw [hrp]; exact hgoes.storable (hs j (by rwa [hrn] at hj)))
    rw [hsa, hrp] at hnext
    exact hnext

end

end Sys2Proof.Machine

namespace Sys2Proof.Machine

/-! ### A transfer -/

section
variable {n : Nat} {ds es : List (BusErr × Byte)} {s t u : State}

/-- A read phase loads no byte. -/
theorem tracePuts_andThen {r : RefRun} {f : List (BusErr × Byte) → RefRun} (hr : tracePuts r.trace = [])
    (hf : ∀ ds, tracePuts (f ds).trace = []) : tracePuts (r.andThen f).trace = [] := by
  unfold RefRun.andThen
  cases r.ending <;> simp [hr, hf]

theorem tracePuts_refPull (sa : SlaveAddr) (c : Cmd) (a : Nat) (ds : List (BusErr × Byte)) :
    tracePuts (refPull sa c a ds).trace = [] := by
  cases ds <;> rfl

theorem tracePuts_refReadRest (sa : SlaveAddr) (k a : Nat) (ds : List (BusErr × Byte)) :
    tracePuts (refReadRest sa k a ds).trace = [] := by
  induction k generalizing a ds with
  | zero => rfl
  | succ k ih =>
    cases k with
    | zero => exact tracePuts_andThen (tracePuts_refPull ..) fun ds => by cases ds <;> rfl
    | succ k => exact tracePuts_andThen (tracePuts_refPull ..) (ih (a + 1))

theorem tracePuts_refRead (sa : SlaveAddr) (a k : Nat) (ds : List (BusErr × Byte)) :
    tracePuts (refRead sa a k ds).trace = [] := by
  match k with
  | 0 => rfl
  | 1 =>
    match ds with
    | [] | (.error, _) :: _ | (.none, _) :: _ => rfl
  | k + 2 => exact tracePuts_andThen (tracePuts_refPull ..) (tracePuts_refReadRest sa (k + 1) (a + 1))

/-- A write phase stores nothing. -/
theorem stored_refWrite (sa : SlaveAddr) (bytes : List Byte) (ds : List (BusErr × Byte)) :
    (refWrite sa bytes ds).stored = [] := by
  obtain ⟨hstored, hle, -⟩ := refWrite_pulls (sa := sa) bytes ds 0
  rw [hstored, List.eq_nil_of_length_eq_zero (Nat.le_zero.1 hle)]
  rfl

/-- The memory events of a transfer: its reads and then its writes. -/
def transferEvents (n : Nat) (q : Sequencer) (r : RefRun) : List MemEvent :=
  readsFrom n q 0 (tracePuts r.trace) ++ writeEvents n r.stored

@[simp] theorem readsFrom_nil (n : Nat) (q : Sequencer) (i : Nat) : readsFrom n q i [] = [] := by
  unfold readsFrom
  cases q.wsrc <;> rfl

theorem readsFrom_zero (n : Nat) (q : Sequencer) (loaded : List Byte) : readsFrom n q 0 loaded = readEvents n q loaded := by
  unfold readsFrom readEvents
  cases q.wsrc <;> simp

theorem transferEvents_andThen (n : Nat) (q : Sequencer) (sa : SlaveAddr) (bytes : List Byte) (a k : Nat)
    (ds : List (BusErr × Byte)) :
    transferEvents n q ((refWrite sa bytes ds).andThen (refRead sa a k)) =
      if (refWrite sa bytes ds).ending = .success then
        readsFrom n q 0 (tracePuts (refWrite sa bytes ds).trace) ++
          writeEvents n (refRead sa a k (refWrite sa bytes ds).rest).stored
      else readsFrom n q 0 (tracePuts (refWrite sa bytes ds).trace) := by
  unfold RefRun.andThen transferEvents
  cases hend : (refWrite sa bytes ds).ending <;>
    simp [stored_refWrite, tracePuts_refRead, writeEvents]

/-- After the write phase: the read phase, where the transfer has one (rules R154, R168). -/
theorem follows_afterWrite (h : State.WriteDone n s) (hq : s.CtlQuiet (s.seq n).ctlid)
    (hs : ∀ j, j < (s.seq n).rn.toNat → s.Storable n ((s.seq n).rp.toNat + j)) :
    Follows n ds s (refRead (s.seq n).sa (s.seq n).rp.toNat (s.seq n).rn.toNat ds)
      (writeEvents n (refRead (s.seq n).sa (s.seq n).rp.toNat (s.seq n).rn.toNat ds).stored)
      (fun t => (t.seq n).st = .doneOk) := by
  by_cases hrn : (s.seq n).rn = 0
  · rw [State.WriteDone, if_pos hrn] at h
    rw [hrn]
    exact ⟨ds, s, .refl n ds s, rfl, rfl, hq, h⟩
  · rw [State.WriteDone, if_neg hrn] at h
    have hpos : 1 ≤ (s.seq n).rn.toNat := Nat.one_le_iff_ne_zero.2 fun h0 => hrn (BitVec.eq_of_toNat_eq h0)
    have hshape : (s.seq n).shape s.cfg = .move { s.seq n with st := if (s.seq n).rn.toNat = 1 then .r1Sa else .rsSa } := by
      rw [Sequencer.shape, h]
      dsimp only
      split_ifs with h1 h2
      · rfl
      · rfl
      · omega
    obtain ⟨t, hgoes, hseq, hctl⟩ := goes_move (ds := ds) hshape hq
    have hreq : (t.seq n).request = (s.seq n).request := by rw [hseq]; rfl
    have hread := follows_read (s := t) (n := n) (ds := ds) (by rw [hseq]; exact hpos) (by rw [hseq])
      (by rw [State.CtlQuiet, ctl_ctlid_of_request hreq hctl]; exact hq)
      (fun j hj => by rw [hseq] at hj ⊢; exact hgoes.storable (hs j hj))
    rw [hseq] at hread
    exact hgoes.follows hreq hread

/-- The check of a transfer that has bytes to write or to read goes on to its first phase (rule R143). -/
theorem Sequencer.shape_check {q : Sequencer} {p : Params} (hst : q.st = .check) (h : ¬(q.wn.toNat = 0 ∧ q.rn.toNat = 0)) :
    q.shape p = .move { q with
      st := if 1 ≤ q.wn.toNat then (if q.wn.toNat = 1 then .w1Sa else .wsSa) else .rphase } := by
  rw [Sequencer.shape, hst]
  dsimp only
  rw [if_neg h]
  rcases (by omega : q.wn.toNat = 0 ∨ q.wn.toNat = 1 ∨ 2 ≤ q.wn.toNat) with h0 | h1 | h2
  · rw [if_neg (by omega), if_neg (by omega), if_neg (by omega)]
  · rw [if_pos h1, if_pos h1.ge, if_pos h1]
  · rw [if_neg (by omega), if_pos h2, if_pos (by omega), if_neg (by omega)]

theorem State.writeBytes_eq (s : State) (n : Nat) :
    s.writeBytes n = (List.range' 0 (s.seq n).wn.toNat).map (s.writeByteAt n) := by
  rw [State.writeBytes, List.range_eq_range']
  rfl

/-- The write phase, where the transfer has one, leaves it where it is done (rule R143). -/
theorem follows_writePhase (hst : (s.seq n).st = if 1 ≤ (s.seq n).wn.toNat then
      (if (s.seq n).wn.toNat = 1 then .w1Sa else .wsSa) else .rphase)
    (h : ¬((s.seq n).wn.toNat = 0 ∧ (s.seq n).rn.toNat = 0)) (hq : s.CtlQuiet (s.seq n).ctlid)
    (hl : ∀ j, j < (s.seq n).wn.toNat → s.Loadable n j) :
    Follows n ds s (refWrite (s.seq n).sa (s.writeBytes n) ds)
      (readsFrom n (s.seq n) 0 (tracePuts (refWrite (s.seq n).sa (s.writeBytes n) ds).trace)) (State.WriteDone n) := by
  rw [State.writeBytes_eq]
  by_cases hwn : 1 ≤ (s.seq n).wn.toNat
  · exact follows_write hwn (by rw [hst, if_pos hwn]) hq hl
  · have hzero : (s.seq n).wn.toNat = 0 := by omega
    have hrn : (s.seq n).rn ≠ 0 := fun h0 => h ⟨hzero, by rw [h0]; rfl⟩
    rw [hzero]
    refine ⟨ds, s, ?_, rfl, rfl, hq, ?_⟩
    · simpa [refWrite, tracePuts] using Goes.refl n ds s
    · rw [State.WriteDone, hst, if_neg hwn, if_neg hrn]

/-- The phases of a transfer. -/
theorem follows_phases (hst : (s.seq n).st = if 1 ≤ (s.seq n).wn.toNat then
      (if (s.seq n).wn.toNat = 1 then .w1Sa else .wsSa) else .rphase)
    (h : ¬((s.seq n).wn.toNat = 0 ∧ (s.seq n).rn.toNat = 0)) (hq : s.CtlQuiet (s.seq n).ctlid)
    (hl : ∀ j, j < (s.seq n).wn.toNat → s.Loadable n j)
    (hs : ∀ j, j < (s.seq n).rn.toNat → s.Storable n ((s.seq n).rp.toNat + j)) :
    Follows n ds s ((refWrite (s.seq n).sa (s.writeBytes n) ds).andThen
        (refRead (s.seq n).sa (s.seq n).rp.toNat (s.seq n).rn.toNat))
      (transferEvents n (s.seq n) ((refWrite (s.seq n).sa (s.writeBytes n) ds).andThen
        (refRead (s.seq n).sa (s.seq n).rp.toNat (s.seq n).rn.toNat)))
      (fun t => (t.seq n).st = .doneOk) := by
  refine (follows_writePhase hst h hq hl).andThen (fun t _ hgoes hreq hquiet hgoal => ?_) (transferEvents_andThen ..)
  have hsa : (t.seq n).sa = (s.seq n).sa := (congrArg Sequencer.sa hreq :)
  have hrp : (t.seq n).rp = (s.seq n).rp := (congrArg Sequencer.rp hreq :)
  have hrn : (t.seq n).rn = (s.seq n).rn := (congrArg Sequencer.rn hreq :)
  have hread := follows_afterWrite (ds := (refWrite (s.seq n).sa (s.writeBytes n) ds).rest) hgoal hquiet
    (fun j hj => by rw [hrp]; exact hgoes.storable (hs j (by rwa [hrn] at hj)))
  rw [hsa, hrp, hrn] at hread
  exact hread

/-- A transfer from `CHECK` on. -/
theorem follows_transfer (hst : (s.seq n).st = .check) (hq : s.CtlQuiet (s.seq n).ctlid)
    (hl : ∀ j, j < (s.seq n).wn.toNat → s.Loadable n j)
    (hs : ∀ j, j < (s.seq n).rn.toNat → s.Storable n ((s.seq n).rp.toNat + j)) :
    Follows n ds s (refTransfer (s.seq n).sa (s.writeBytes n) (s.seq n).rp.toNat (s.seq n).rn.toNat ds)
      (transferEvents n (s.seq n) (refTransfer (s.seq n).sa (s.writeBytes n) (s.seq n).rp.toNat (s.seq n).rn.toNat ds))
      (fun t => (t.seq n).st = .doneOk) := by
  have hempty : s.writeBytes n = [] ↔ (s.seq n).wn.toNat = 0 := by simp [State.writeBytes]
  by_cases h : (s.seq n).wn.toNat = 0 ∧ (s.seq n).rn.toNat = 0
  · rw [refTransfer, if_pos ⟨hempty.2 h.1, h.2⟩]
    obtain ⟨t, hgoes, hseq, hctl⟩ := goes_move (ds := ds) (q := { s.seq n with cause := .malformed, st := .doneFail })
      (by rw [Sequencer.shape, hst]; dsimp only; rw [if_pos h]) hq
    have hreq : (t.seq n).request = (s.seq n).request := by rw [hseq]; rfl
    exact ⟨ds, t, by simpa [transferEvents, tracePuts, writeEvents] using hgoes, hreq, rfl,
      by rw [State.CtlQuiet, ctl_ctlid_of_request hreq hctl]; exact hq, by rw [hseq], by rw [hseq]⟩
  · rw [refTransfer, if_neg fun hne => h ⟨hempty.1 hne.1, hne.2⟩]
    obtain ⟨t, hgoes, hseq, hctl⟩ := goes_move (ds := ds) (Sequencer.shape_check hst h) hq
    have hreq : (t.seq n).request = (s.seq n).request := by rw [hseq]; rfl
    have hbytes : t.writeBytes n = s.writeBytes n := by
      rw [State.writeBytes_eq, State.writeBytes_eq, hseq, (funext (hgoes.writeByteAt hreq) : t.writeByteAt n = s.writeByteAt n)]
    have hphases := follows_phases (s := t) (n := n) (ds := ds) (by rw [hseq]) (by rw [hseq]; exact h)
      (by rw [State.CtlQuiet, ctl_ctlid_of_request hreq hctl]; exact hq)
      (fun j hj => hgoes.loadable hreq (hl j (by rwa [hseq] at hj)))
      (fun j hj => by rw [hseq] at hj ⊢; exact hgoes.storable (hs j hj))
    rw [hbytes, hseq] at hphases
    exact hgoes.follows hreq hphases

end

/-- Settles O56: the state reached holds what the run of the reference does. -/
theorem eagerTransferFollowsReference : Obligations.EagerTransferFollowsReference := by
  intro n s ds q ref hst hq _ hl hadm hrace
  obtain ⟨es, t, hgoes, hreq, hends⟩ := follows_transfer (ds := ds) hst hq
    (fun j hj hsrc => ⟨(hl hsrc).1 j hj, (hl hsrc).2 j hj⟩) (fun j hj => ⟨hadm j hj, hrace j hj⟩)
  obtain ⟨k, hk⟩ := hgoes.run
  have hid : (t.seq n).ctlid = q.ctlid := (congrArg Sequencer.ctlid hreq :)
  unfold Ends at hends
  rw [hid] at hends
  refine ⟨k, t, hk 0, hgoes.ports, ?_, hgoes.memory, fun h => ?_, fun c h => ?_, fun h => ?_⟩
  · rw [hgoes.mh, transferEvents, readsFrom_zero, ← List.append_assoc]
  all_goals
    change RefRun.ending (refTransfer _ _ _ _ _) = _ at h
    rw [h] at hends
  · exact ⟨hends.2.2, hends.2.1⟩
  · exact ⟨hends.2.2.1, hends.2.2.2, hends.2.1⟩
  · exact hends

end Sys2Proof.Machine

namespace Sys2Proof.Machine

/-! ## The identity reader follows the reference `ReadIdentity` (rule R191) -/

section
variable {n : Nat} {ds es : List (BusErr × Byte)} {s t u : State}

/-! ### Sentinel runs -/

/-- The sentinel in the bytes at addresses `a j`, …, `a (j + k - 1)`, in order. -/
def sentinelStores (p : Params) (a : Nat → Nat) (j k : Nat) : List (Nat × Byte) :=
  (List.range' j k).map fun i => (a i, p.sentinel)

/-- A sentinel state writes its bytes from index `j` to its last and goes on. -/
theorem goes_sentinels (m : Nat) {q : Sequencer} {a : Nat → Nat} {last : Nat} {next : St} {j : BitVec 5}
    (hseq : s.seq n = { q with j := j }) (hj : j.toNat + m = last) (hlast : last < 31)
    (hshape : ∀ j, ({ q with j := j } : Sequencer).shape s.cfg = .fill (a j.toNat) (afterSentinel last next { q with j := j }))
    (hq : s.CtlQuiet q.ctlid) (hs : ∀ i, i ≤ last → s.Storable n (a i)) :
    ∃ t, Goes n ds s ds t [] (writeEvents n (sentinelStores s.cfg a j.toNat (m + 1))) (sentinelStores s.cfg a j.toNat (m + 1)) ∧
      t.seq n = { q with j := BitVec.ofNat 5 last, st := next } ∧ t.ctl q.ctlid = s.ctl q.ctlid := by
  induction m generalizing s j with
  | zero =>
    obtain ⟨hadm, hrace⟩ := hs j.toNat (by omega)
    obtain ⟨t, hgoes, htseq, htctl⟩ := goes_fill (ds := ds) (by rw [hseq]; exact hshape j) (by rw [hseq]; exact hq) hadm hrace
    rw [Nat.add_zero] at hj
    rw [hseq] at htctl
    refine ⟨t, hgoes, htseq.trans ?_, htctl⟩
    rw [afterSentinel, if_pos hj, ← hj, BitVec.ofNat_toNat, BitVec.setWidth_eq]
  | succ m ih =>
    obtain ⟨hadm, hrace⟩ := hs j.toNat (by omega)
    obtain ⟨t, hgoes, htseq, htctl⟩ := goes_fill (ds := ds) (by rw [hseq]; exact hshape j) (by rw [hseq]; exact hq) hadm hrace
    rw [hseq] at htctl
    have hnext : (j + 1).toNat = j.toNat + 1 := by
      rw [BitVec.toNat_add]
      exact Nat.mod_eq_of_lt (show j.toNat + 1 < 32 by omega)
    obtain ⟨u, hu, huseq, huctl⟩ := ih (s := t) (j := j + 1)
      (htseq.trans (by rw [afterSentinel, if_neg (by dsimp only; omega)])) (by omega)
      (by rw [hgoes.cfg]; exact hshape) (by rw [State.CtlQuiet, htctl]; exact hq) (fun i hi => hgoes.storable (hs i hi))
    have htrans := hgoes.trans hu
    rw [hgoes.cfg, hnext] at htrans
    exact ⟨u, htrans, huseq, huctl.trans htctl⟩

/-- The stores of `ID_FILL` are the sentinels of both outputs. -/
theorem sentinelStores_fill (p : Params) (snp macp : Word) :
    sentinelStores p (fun j => if j < 16 then bufferAddr snp j else bufferAddr macp (j - 16)) 0 22 =
      refSentinels p snp.toNat 16 ++ refSentinels p macp.toNat 6 := by
  rw [sentinelStores, ← List.range_eq_range', show 22 = 16 + 6 from rfl, List.range_add, List.map_append, List.map_map]
  refine congrArg₂ (· ++ ·) (List.map_congr_left fun i hi => ?_) (List.map_congr_left fun i _ => ?_)
  · simp [List.mem_range.1 hi, bufferAddr]
  · simp [bufferAddr]

/-- The stores of a refill state are the sentinels of its output. -/
theorem sentinelStores_refill (p : Params) (base : Word) (k : Nat) :
    sentinelStores p (bufferAddr base) 0 k = refSentinels p base.toNat k := by
  rw [sentinelStores, ← List.range_eq_range']
  rfl

theorem writeEvents_append (n : Nat) (ws vs : List (Nat × Byte)) :
    writeEvents n (ws ++ vs) = writeEvents n ws ++ writeEvents n vs :=
  List.map_append

/-! ### What an identity read keeps -/

/-- What an identity read keeps of the registers: mode, controller, and the pointers to the outputs. -/
def Sequencer.outputs (q : Sequencer) : Mode × Handle × Word × Word := (q.mode, q.ctlid, q.snp, q.macp)

theorem outputs_identityContinue (p : Params) (q : Sequencer) : (identityContinue p q).outputs = q.outputs := by
  by_cases h : q.xok = false ∧ p.refillOnFailure = true
  · rw [identityContinue_of_refill h]; rfl
  · rw [identityContinue_of_no_refill h]; rfl

/-- Both outputs can be stored to, with the lengths of the transfers that fill them. -/
def State.OutputsStorable (s : State) (n : Nat) : Prop :=
  (∀ i, i < max 16 s.cfg.snLen.toNat → s.Storable n ((s.seq n).snp.toNat + i)) ∧
    ∀ i, i < max 6 s.cfg.macLen.toNat → s.Storable n ((s.seq n).macp.toNat + i)

theorem Goes.outputsStorable {l : List TraceItem} {events : List MemEvent} {stored : List (Nat × Byte)}
    (h : Goes n ds s es t l events stored) (hout : (t.seq n).outputs = (s.seq n).outputs) (hs : s.OutputsStorable n) :
    t.OutputsStorable n := by
  simp only [Sequencer.outputs, Prod.mk.injEq] at hout
  obtain ⟨-, -, hsnp, hmacp⟩ := hout
  rw [State.OutputsStorable, hsnp, hmacp, h.cfg]
  exact ⟨fun i hi => h.storable (hs.1 i hi), fun i hi => h.storable (hs.2 i hi)⟩

/-! ### A stage: its transfer, and its refill -/

/-- How a stage goes on after its transfer `r`: the outcome is in `S.XOK`, and the registers are those of rule R195. -/
def StageEnded (n : Nat) (s : State) (r : RefRun) (t : State) : Prop :=
  t.CtlQuiet (s.seq n).ctlid ∧ ∃ q, t.seq n = identityContinue s.cfg q ∧ q.outputs = (s.seq n).outputs ∧
    q.idstg = (s.seq n).idstg ∧ q.xok = (r.ending == .success)

/-- The transfer of a stage of an identity read, of one write byte, up to its outcome. -/
theorem goes_stage (hst : (s.seq n).st = .check) (hmode : (s.seq n).mode = .ident) (hsrc : (s.seq n).wsrc = .const)
    (hwn : (s.seq n).wn = 1) (hq : s.CtlQuiet (s.seq n).ctlid)
    (hs : ∀ j, j < (s.seq n).rn.toNat → s.Storable n ((s.seq n).rp.toNat + j)) {r : RefRun}
    (hr : r = refTransfer (s.seq n).sa [(s.seq n).wk] (s.seq n).rp.toNat (s.seq n).rn.toNat ds) :
    ∃ es t, Goes n ds s es t r.trace (writeEvents n r.stored) r.stored ∧
      (r.ending = .hang → (t.seq n).st.isPoll = true ∧ (t.ctl (s.seq n).ctlid).busy = true) ∧
      (r.ending ≠ .hang → es = r.rest ∧ StageEnded n s r t) := by
  have hbytes : s.writeBytes n = [(s.seq n).wk] := by simp [State.writeBytes, hwn, hsrc]
  have hfollows := follows_transfer (ds := ds) hst hq (fun j _ hmem => by simp [hsrc] at hmem) hs
  rw [hbytes, ← hr] at hfollows
  obtain ⟨es, t, hgoes, hreq, hends⟩ := hfollows
  have hevents : transferEvents n (s.seq n) r = writeEvents n r.stored := by simp [transferEvents, readsFrom, hsrc]
  rw [hevents] at hgoes
  have hid : (t.seq n).ctlid = (s.seq n).ctlid := (congrArg Sequencer.ctlid hreq :)
  have htmode : (t.seq n).mode = .ident := ((congrArg Sequencer.mode hreq :) : (t.seq n).mode = (s.seq n).mode).trans hmode
  have hout : (t.seq n).outputs = (s.seq n).outputs := (congrArg Sequencer.outputs hreq :)
  have hstage : (t.seq n).idstg = (s.seq n).idstg := (congrArg Sequencer.idstg hreq :)
  unfold Ends at hends
  rw [hid] at hends
  cases hend : r.ending <;> rw [hend] at hends
  case hang => exact ⟨es, t, hgoes, fun _ => hends, fun h => absurd rfl h⟩
  case success =>
    obtain ⟨rfl, hquiet, hdone⟩ := hends
    obtain ⟨u, hu, huseq, huctl⟩ := goes_move (ds := r.rest) (Sequencer.shape_doneOk_of_ident htmode hdone) (by rw [hid]; exact hquiet)
    have htrans := hgoes.trans hu
    simp only [List.append_nil] at htrans
    rw [hid] at huctl
    exact ⟨_, u, htrans, nofun, fun _ => ⟨rfl, by rw [State.CtlQuiet, huctl]; exact hquiet, (t.seq n).succeeded,
      by rw [huseq, hgoes.cfg], hout, hstage, by rw [hend]; rfl⟩⟩
  case abort c =>
    obtain ⟨rfl, hquiet, hdone, -⟩ := hends
    obtain ⟨u, hu, huseq, huctl⟩ := goes_move (ds := r.rest) (Sequencer.shape_doneFail_of_ident htmode hdone) (by rw [hid]; exact hquiet)
    have htrans := hgoes.trans hu
    simp only [List.append_nil] at htrans
    rw [hid] at huctl
    exact ⟨_, u, htrans, nofun, fun _ => ⟨rfl, by rw [State.CtlQuiet, huctl]; exact hquiet, (t.seq n).failed,
      by rw [huseq, hgoes.cfg], hout, hstage, by rw [hend]; rfl⟩⟩

/-- A refill state, which fills the `last + 1` bytes from `base`. -/
theorem goes_refillState {q : Sequencer} {st next : St} {base : Word} {last : Nat} (hseq : s.seq n = { q with j := 0, st := st })
    (hlast : last < 31)
    (hshape : ∀ j, ({ q with j := j, st := st } : Sequencer).shape s.cfg =
      .fill (bufferAddr base j.toNat) (afterSentinel last next { q with j := j, st := st }))
    (hq : s.CtlQuiet q.ctlid) (hs : ∀ i, i ≤ last → s.Storable n (base.toNat + i)) :
    ∃ t, Goes n ds s ds t [] (writeEvents n (refSentinels s.cfg base.toNat (last + 1))) (refSentinels s.cfg base.toNat (last + 1)) ∧
      t.CtlQuiet q.ctlid ∧ (t.seq n).outputs = q.outputs ∧ (t.seq n).xok = q.xok ∧ (t.seq n).st = next := by
  obtain ⟨t, ht, htseq, htctl⟩ := goes_sentinels (ds := ds) (q := { q with st := st }) (a := bufferAddr base) (j := 0) (last := last) last
    hseq (Nat.zero_add last) hlast hshape hq hs
  rw [← sentinelStores_refill]
  exact ⟨t, ht, by rw [State.CtlQuiet, htctl]; exact hq, by rw [htseq]; rfl, by rw [htseq], by rw [htseq]⟩

/-- The refill of a stage, where it has one, up to the state that the reader takes up next. -/
theorem goes_refill {q : Sequencer} (hseq : s.seq n = identityContinue s.cfg q) (hq : s.CtlQuiet q.ctlid)
    (hs : s.OutputsStorable n) {e : RefEnd} (hxok : q.xok = (e == .success)) {stored : List (Nat × Byte)}
    (hstored : stored = refRefill s.cfg e (if q.idstg = .sn then q.snp else q.macp).toNat (if q.idstg = .sn then 16 else 6)) :
    ∃ t, Goes n ds s ds t [] (writeEvents n stored) stored ∧ t.CtlQuiet q.ctlid ∧ (t.seq n).outputs = q.outputs ∧
      (t.seq n).xok = q.xok ∧ (t.seq n).st = if q.idstg = .sn then .idMac else .idEnd := by
  by_cases hr : q.xok = false ∧ s.cfg.refillOnFailure = true
  · rw [identityContinue_of_refill hr] at hseq
    have he : e ≠ .success ∧ s.cfg.refillOnFailure = true := ⟨by simpa [hxok] using hr.1, hr.2⟩
    obtain ⟨hsnp, hmacp⟩ := hs
    rw [hseq] at hsnp hmacp
    rw [refRefill, if_pos he] at hstored
    subst hstored
    by_cases hstage : q.idstg = .sn
    · simp only [if_pos hstage] at hseq ⊢
      exact goes_refillState (st := .idRefillSn) (last := 15) hseq (by omega) (fun _ => rfl) hq (fun i hi => hsnp i (by omega))
    · simp only [if_neg hstage] at hseq ⊢
      exact goes_refillState (st := .idRefillMac) (last := 5) hseq (by omega) (fun _ => rfl) hq (fun i hi => hmacp i (by omega))
  · rw [identityContinue_of_no_refill hr] at hseq
    have hnone : ¬(e ≠ .success ∧ s.cfg.refillOnFailure = true) := by simpa [hxok] using hr
    rw [refRefill, if_neg hnone] at hstored
    subst hstored
    exact ⟨s, .refl n ds s, hq, by rw [hseq]; rfl, by rw [hseq], by rw [hseq]⟩

/-- A whole stage: its transfer and its refill. -/
theorem goes_stage_refill (hst : (s.seq n).st = .check) (hmode : (s.seq n).mode = .ident) (hsrc : (s.seq n).wsrc = .const)
    (hwn : (s.seq n).wn = 1) (hq : s.CtlQuiet (s.seq n).ctlid) (hout : s.OutputsStorable n)
    (hs : ∀ j, j < (s.seq n).rn.toNat → s.Storable n ((s.seq n).rp.toNat + j)) {r : RefRun}
    (hr : r = refTransfer (s.seq n).sa [(s.seq n).wk] (s.seq n).rp.toNat (s.seq n).rn.toNat ds) {stored : List (Nat × Byte)}
    (hstored : stored = r.stored ++ refRefill s.cfg r.ending
      (if (s.seq n).idstg = .sn then (s.seq n).snp else (s.seq n).macp).toNat (if (s.seq n).idstg = .sn then 16 else 6)) :
    (r.ending = .hang → ∃ es t, Goes n ds s es t r.trace (writeEvents n r.stored) r.stored ∧
      (t.seq n).st.isPoll = true ∧ (t.ctl (s.seq n).ctlid).busy = true) ∧
    (r.ending ≠ .hang → ∃ t, Goes n ds s r.rest t r.trace (writeEvents n stored) stored ∧ t.CtlQuiet (s.seq n).ctlid ∧
      (t.seq n).outputs = (s.seq n).outputs ∧ (t.seq n).xok = (r.ending == .success) ∧
      (t.seq n).st = if (s.seq n).idstg = .sn then .idMac else .idEnd) := by
  obtain ⟨es, t, hgoes, hhang, hended⟩ := goes_stage hst hmode hsrc hwn hq hs hr
  refine ⟨fun h => ⟨es, t, hgoes, hhang h⟩, fun h => ?_⟩
  obtain ⟨rfl, hquiet, q, hseq, hqout, hqstage, hxok⟩ := hended h
  have htout : (t.seq n).outputs = (s.seq n).outputs := by rw [hseq, outputs_identityContinue, hqout]
  have hqs := hqout
  simp only [Sequencer.outputs, Prod.mk.injEq] at hqs
  obtain ⟨-, hctlid, hsnp, hmacp⟩ := hqs
  rw [← hctlid] at hquiet ⊢
  obtain ⟨u, hu, huquiet, huout, huxok, hust⟩ := goes_refill (ds := r.rest) (by rw [hgoes.cfg]; exact hseq) hquiet
    (hgoes.outputsStorable htout hout) hxok rfl
  have htrans := hgoes.trans hu
  rw [hgoes.cfg, hqstage, hsnp, hmacp] at htrans
  rw [List.append_nil, ← writeEvents_append, ← hstored] at htrans
  exact ⟨u, htrans, huquiet, huout.trans hqout, huxok.trans hxok, by rw [hust, hqstage]⟩

/-- The fill, from its first byte to the state that sets up the first stage. -/
theorem goes_idFill (hst : (s.seq n).st = .idFill) (hj : (s.seq n).j = 0) (hq : s.CtlQuiet (s.seq n).ctlid)
    (hout : s.OutputsStorable n) {stored : List (Nat × Byte)}
    (hstored : stored = refSentinels s.cfg (s.seq n).snp.toNat 16 ++ refSentinels s.cfg (s.seq n).macp.toNat 6) :
    ∃ t, Goes n ds s ds t [] (writeEvents n stored) stored ∧ t.CtlQuiet (s.seq n).ctlid ∧
      (t.seq n).outputs = (s.seq n).outputs ∧ (t.seq n).st = .idSn := by
  have hseq : s.seq n = { s.seq n with st := .idFill, j := 0 } := by rw [← hst, ← hj]
  obtain ⟨hsnp, hmacp⟩ := hout
  obtain ⟨t, ht, htseq, htctl⟩ := goes_sentinels (ds := ds) (s := s) (n := n) (q := { s.seq n with st := .idFill }) (j := 0)
    (a := fun j => if j < 16 then bufferAddr (s.seq n).snp j else bufferAddr (s.seq n).macp (j - 16)) (last := 21) (next := .idSn) 21
    hseq rfl (by omega) (fun _ => rfl) hq (fun i hi => by
      split_ifs
      · exact hsnp i (by omega)
      · exact hmacp (i - 16) (by omega))
  have hfill := sentinelStores_fill s.cfg (s.seq n).snp (s.seq n).macp
  rw [← hstored] at hfill
  exact ⟨t, hfill ▸ ht, by rw [State.CtlQuiet, htctl]; exact hq, by rw [htseq]; rfl, by rw [htseq]⟩

/-- A stage from the state that sets it up. -/
theorem goes_stageFrom {q : Sequencer} (hshape : (s.seq n).shape s.cfg = .move q) (hst : q.st = .check)
    (hmode : q.mode = .ident) (hsrc : q.wsrc = .const) (hwn : q.wn = 1) (hqout : q.outputs = (s.seq n).outputs)
    (hq : s.CtlQuiet (s.seq n).ctlid) (hout : s.OutputsStorable n)
    (hs : ∀ j, j < q.rn.toNat → s.Storable n (q.rp.toNat + j)) {r : RefRun}
    (hr : r = refTransfer q.sa [q.wk] q.rp.toNat q.rn.toNat ds) {stored : List (Nat × Byte)}
    (hstored : stored = r.stored ++ refRefill s.cfg r.ending
      (if q.idstg = .sn then q.snp else q.macp).toNat (if q.idstg = .sn then 16 else 6)) :
    (r.ending = .hang → ∃ es t, Goes n ds s es t r.trace (writeEvents n r.stored) r.stored ∧
      (t.seq n).st.isPoll = true ∧ (t.ctl (s.seq n).ctlid).busy = true) ∧
    (r.ending ≠ .hang → ∃ t, Goes n ds s r.rest t r.trace (writeEvents n stored) stored ∧ t.CtlQuiet (s.seq n).ctlid ∧
      (t.seq n).outputs = (s.seq n).outputs ∧ (t.seq n).xok = (r.ending == .success) ∧
      (t.seq n).st = if q.idstg = .sn then .idMac else .idEnd) := by
  obtain ⟨t, ht, htseq, htctl⟩ := goes_move (ds := ds) hshape hq
  have hid : q.ctlid = (s.seq n).ctlid := congrArg (fun x => x.2.1) hqout
  obtain ⟨hhang, hended⟩ := goes_stage_refill (s := t) (n := n) (ds := ds) (r := r) (stored := stored) (by rw [htseq]; exact hst)
    (by rw [htseq]; exact hmode) (by rw [htseq]; exact hsrc) (by rw [htseq]; exact hwn)
    (by rw [State.CtlQuiet, htseq, hid, htctl]; exact hq) (ht.outputsStorable (by rw [htseq]; exact hqout) hout)
    (fun j hj => by rw [htseq] at hj ⊢; exact ht.storable (hs j hj)) (by rw [htseq]; exact hr) (by rw [htseq, ht.cfg]; exact hstored)
  rw [htseq, hid] at hhang hended
  refine ⟨fun h => ?_, fun h => ?_⟩
  · obtain ⟨es, u, hu, hpoll⟩ := hhang h
    exact ⟨es, u, ht.trans hu, hpoll⟩
  · obtain ⟨u, hu, huquiet, huout, hrest⟩ := hended h
    exact ⟨u, ht.trans hu, huquiet, huout.trans hqout, hrest⟩

/-- The registers with which the serial-number transfer begins (rule R194). -/
def Sequencer.snTransaction (p : Params) (q : Sequencer) : Sequencer :=
  { q with
    idstg := .sn, sa := p.idSlaveAddr, wsrc := .const, wk := p.snWordAddr, wn := 1, rp := q.snp, rn := p.snLen, st := .check }

/-- The registers with which the MAC transfer begins (rule R197). -/
def Sequencer.macTransaction (p : Params) (q : Sequencer) : Sequencer :=
  { q with
    idstg := .mac, sa := p.macSlaveAddr, wsrc := .const, wk := p.macWordAddr, wn := 1, rp := q.macp, rn := p.macLen, st := .check }

theorem Sequencer.shape_idSn {q : Sequencer} {p : Params} (h : q.st = .idSn) : q.shape p = .move (q.snTransaction p) := by
  rw [Sequencer.shape, h]
  rfl

theorem Sequencer.shape_idMac {q : Sequencer} {p : Params} (h : q.st = .idMac) : q.shape p = .move (q.macTransaction p) := by
  rw [Sequencer.shape, h]
  rfl

/-- The stage of the serial number. -/
theorem goes_snStage (hst : (s.seq n).st = .idSn) (hmode : (s.seq n).mode = .ident) (hq : s.CtlQuiet (s.seq n).ctlid)
    (hout : s.OutputsStorable n) {r : RefRun}
    (hr : r = refTransfer s.cfg.idSlaveAddr [s.cfg.snWordAddr] (s.seq n).snp.toNat s.cfg.snLen.toNat ds) {stored : List (Nat × Byte)}
    (hstored : stored = r.stored ++ refRefill s.cfg r.ending (s.seq n).snp.toNat 16) :
    (r.ending = .hang → ∃ es t, Goes n ds s es t r.trace (writeEvents n r.stored) r.stored ∧
      (t.seq n).st.isPoll = true ∧ (t.ctl (s.seq n).ctlid).busy = true) ∧
    (r.ending ≠ .hang → ∃ t, Goes n ds s r.rest t r.trace (writeEvents n stored) stored ∧ t.CtlQuiet (s.seq n).ctlid ∧
      (t.seq n).outputs = (s.seq n).outputs ∧ (t.seq n).xok = (r.ending == .success) ∧ (t.seq n).st = .idMac) :=
  goes_stageFrom (Sequencer.shape_idSn hst) rfl hmode rfl rfl rfl hq hout
    (fun j hj => hout.1 j (lt_of_lt_of_le hj (le_max_right _ _))) hr hstored

/-- The stage of the MAC. -/
theorem goes_macStage (hst : (s.seq n).st = .idMac) (hmode : (s.seq n).mode = .ident) (hq : s.CtlQuiet (s.seq n).ctlid)
    (hout : s.OutputsStorable n) {r : RefRun}
    (hr : r = refTransfer s.cfg.macSlaveAddr [s.cfg.macWordAddr] (s.seq n).macp.toNat s.cfg.macLen.toNat ds)
    {stored : List (Nat × Byte)} (hstored : stored = r.stored ++ refRefill s.cfg r.ending (s.seq n).macp.toNat 6) :
    (r.ending = .hang → ∃ es t, Goes n ds s es t r.trace (writeEvents n r.stored) r.stored ∧
      (t.seq n).st.isPoll = true ∧ (t.ctl (s.seq n).ctlid).busy = true) ∧
    (r.ending ≠ .hang → ∃ t, Goes n ds s r.rest t r.trace (writeEvents n stored) stored ∧ t.CtlQuiet (s.seq n).ctlid ∧
      (t.seq n).outputs = (s.seq n).outputs ∧ (t.seq n).xok = (r.ending == .success) ∧ (t.seq n).st = .idEnd) :=
  goes_stageFrom (Sequencer.shape_idMac hst) rfl hmode rfl rfl rfl hq hout
    (fun j hj => hout.2 j (lt_of_lt_of_le hj (le_max_right _ _))) hr hstored

/-! ### The whole read -/

/-- What an identity read has done so far, as the statement says it. -/
theorem Goes.identity {l : List TraceItem} {stored : List (Nat × Byte)} (h : Goes n ds s es t l (writeEvents n stored) stored) :
    ∃ k, eagerRun k n ds s = .next t ∧ portOps t.h = portOps s.h ++ l.map TraceItem.eager ∧
      t.mh = s.mh ++ writeEvents n stored ∧ (∀ a, t.byteAt a = (storeAll stored s).byteAt a) ∧ t.hh = s.hh := by
  obtain ⟨k, hk⟩ := h.run
  exact ⟨k, hk 0, h.ports, h.mh, h.memory, h.hh⟩

/-- The completion of an identity read, after what it has done. -/
theorem Goes.identity_end {l : List TraceItem} {stored : List (Nat × Byte)} (h : Goes n ds s es t l (writeEvents n stored) stored)
    (hst : (t.seq n).st = .idEnd) (hq : t.CtlQuiet (t.seq n).ctlid) :
    ∃ k u, eagerRun k n ds s = .next u ∧ portOps u.h = portOps s.h ++ l.map TraceItem.eager ∧
      u.mh = s.mh ++ writeEvents n stored ∧ (∀ a, u.byteAt a = (storeAll stored s).byteAt a) ∧
      (u.seq n).st = .idle ∧ (u.seq n).result = some (t.seq n).xok ∧ u.hh = s.hh ++ [.done n (t.seq n).xok] := by
  obtain ⟨k, hk⟩ := h.run
  have hshape : (t.seq n).shape t.cfg =
      .finish (t.seq n).xok { t.seq n with result := some (t.seq n).xok, mode := .none, st := .idle } := by
    rw [Sequencer.shape, hst]
  have hlast : eagerRun 1 n es t = seqStep n t := by
    rw [eagerRun, eagerTurn_seq (by rw [hst]; simp) hq]
    dsimp only [runTurn]
    cases seqStep n t <;> rfl
  exact ⟨k + 1, _, (hk 1).trans (hlast.trans (seqStep_of_shape hshape)), h.ports, h.mh, h.memory, by simp, by simp, by simp [h.hh]⟩

end

/-- Settles O57: the fill, and the stages of the reference in its order. -/
theorem eagerIdentityFollowsReference : Obligations.EagerIdentityFollowsReference := by
  intro n s ds q ref hst hj hmode hq _ hadmSn hadmMac hraceSn hraceMac
  have hout : s.OutputsStorable n := ⟨fun i hi => ⟨hadmSn i hi, hraceSn i hi⟩, fun i hi => ⟨hadmMac i hi, hraceMac i hi⟩⟩
  obtain ⟨t, ht, htquiet, htout, htst⟩ := goes_idFill (ds := ds) hst hj hq hout rfl
  have htqs := htout
  simp only [Sequencer.outputs, Prod.mk.injEq] at htqs
  obtain ⟨htmode, htid, htsnp, htmacp⟩ := htqs
  obtain ⟨hhang, hended⟩ := goes_snStage (ds := ds) htst (htmode.trans hmode) (by rw [htid]; exact htquiet)
    (ht.outputsStorable htout hout) rfl rfl
  rw [ht.cfg, htsnp, htid] at hhang hended
  obtain ⟨sn, hsn⟩ : ∃ sn, sn = refTransfer s.cfg.idSlaveAddr [s.cfg.snWordAddr] q.snp.toNat s.cfg.snLen.toNat ds := ⟨_, rfl⟩
  rw [← hsn] at hhang hended
  by_cases hsnEnd : sn.ending = .hang
  · obtain ⟨es, u, hu, hpoll, hbusy⟩ := hhang hsnEnd
    have hgoes := ht.trans hu
    rw [← writeEvents_append] at hgoes
    obtain ⟨k, hrun, hports, hmh, hmem, hhh⟩ := hgoes.identity
    have href : ref = ⟨sn.trace, (refSentinels s.cfg q.snp.toNat 16 ++ refSentinels s.cfg q.macp.toNat 6) ++ sn.stored, none⟩ := by
      simp only [ref, refIdentity, ← hsn, if_pos hsnEnd]
    rw [href]
    exact ⟨k, u, hrun, hports, hmh, hmem, nofun, fun _ => ⟨hpoll, hbusy, hhh⟩⟩
  · obtain ⟨u, hu, huquiet, huout, -, hust⟩ := hended hsnEnd
    have hgoes := ht.trans hu
    rw [← writeEvents_append] at hgoes
    have huq := huout.trans htout
    have huqs := huq
    simp only [Sequencer.outputs, Prod.mk.injEq] at huqs
    obtain ⟨humode, huid, husnp, humacp⟩ := huqs
    obtain ⟨hhang, hended⟩ := goes_macStage (ds := sn.rest) hust (humode.trans hmode) (by rw [huid]; exact huquiet)
      (hgoes.outputsStorable huq hout) rfl rfl
    rw [hgoes.cfg, humacp, huid] at hhang hended
    obtain ⟨mac, hmac⟩ : ∃ mac, mac = refTransfer s.cfg.macSlaveAddr [s.cfg.macWordAddr] q.macp.toNat s.cfg.macLen.toNat sn.rest :=
      ⟨_, rfl⟩
    rw [← hmac] at hhang hended
    by_cases hmacEnd : mac.ending = .hang
    · obtain ⟨es, v, hv, hpoll, hbusy⟩ := hhang hmacEnd
      have hgoes := hgoes.trans hv
      rw [← writeEvents_append] at hgoes
      obtain ⟨k, hrun, hports, hmh, hmem, hhh⟩ := hgoes.identity
      have href : ref = ⟨sn.trace ++ mac.trace, (refSentinels s.cfg q.snp.toNat 16 ++ refSentinels s.cfg q.macp.toNat 6) ++
          (sn.stored ++ refRefill s.cfg sn.ending q.snp.toNat 16) ++ mac.stored, none⟩ := by
        simp only [ref, refIdentity, ← hsn, ← hmac, if_neg hsnEnd, if_pos hmacEnd, List.append_assoc]
      rw [href]
      exact ⟨k, v, hrun, hports, hmh, hmem, nofun, fun _ => ⟨hpoll, hbusy, hhh⟩⟩
    · obtain ⟨v, hv, hvquiet, hvout, hvxok, hvst⟩ := hended hmacEnd
      have hgoes := hgoes.trans hv
      rw [← writeEvents_append] at hgoes
      have hvid : (v.seq n).ctlid = q.ctlid := (congrArg (fun x => x.2.1) (hvout.trans huq) :)
      obtain ⟨k, w, hrun, hports, hmh, hmem, hidle, hresult, hhh⟩ := hgoes.identity_end hvst (by rw [hvid]; exact hvquiet)
      have href : ref = ⟨sn.trace ++ mac.trace, (refSentinels s.cfg q.snp.toNat 16 ++ refSentinels s.cfg q.macp.toNat 6) ++
          (sn.stored ++ refRefill s.cfg sn.ending q.snp.toNat 16) ++ (mac.stored ++ refRefill s.cfg mac.ending q.macp.toNat 6),
          some (mac.ending == .success)⟩ := by
        simp only [ref, refIdentity, ← hsn, ← hmac, if_neg hsnEnd, if_neg hmacEnd, List.append_assoc]
      rw [hvxok] at hresult hhh
      rw [href]
      exact ⟨k, w, hrun, hports, hmh, hmem, fun b hb => by cases hb; exact ⟨hidle, hresult, hhh⟩, nofun⟩

end Sys2Proof.Machine

namespace Sys2Proof.Machine

/-! ## A request in progress completes (rule R252) -/

/-! ### How far a request has to go -/

/-- A bound on the steps that the transfer in these registers has to go, from its state, counts and index. -/
def Sequencer.transferLeft (q : Sequencer) : Nat :=
  let rn := q.rn.toNat
  let wn := q.wn.toNat
  let i := q.i.toNat
  match q.st with
  | .idle | .idFill | .idSn | .idRefillSn | .idMac | .idRefillMac | .idEnd => 0
  | .doneOk | .doneFail => 1
  | .rpErr => 2
  | .rpPoll => 3
  | .rpCmd => 4
  | .rfGet => 5
  | .rfPoll => 6
  | .rfCmd => 7
  | .rfSa => 8
  | .rmGet => 5 + 4 * (rn - 1 - i)
  | .rmPoll => 6 + 4 * (rn - 1 - i)
  | .rmCmd => 7 + 4 * (rn - 1 - i)
  | .rmSa => 8 + 4 * (rn - 1 - i)
  | .rsGet => 2 + 4 * rn
  | .rsPoll => 3 + 4 * rn
  | .rsCmd => 4 + 4 * rn
  | .rsSa => 5 + 4 * rn
  | .r1Get => 2
  | .r1Err => 3
  | .r1Poll => 4
  | .r1Cmd => 5
  | .r1Sa => 6
  | .rphase => 7 + 4 * rn
  | .w1Err | .wfErr => 8 + 4 * rn
  | .w1Poll | .wfPoll => 9 + 4 * rn
  | .w1Cmd | .wfCmd => 10 + 4 * rn
  | .w1Put | .wfPut => 11 + 4 * rn
  | .w1Sa | .wfSa => 12 + 4 * rn
  | .wmErr => 8 + 4 * rn + 5 * (wn - 1 - i)
  | .wmPoll => 9 + 4 * rn + 5 * (wn - 1 - i)
  | .wmCmd => 10 + 4 * rn + 5 * (wn - 1 - i)
  | .wmPut => 11 + 4 * rn + 5 * (wn - 1 - i)
  | .wmSa => 12 + 4 * rn + 5 * (wn - 1 - i)
  | .wsPoll => 8 + 4 * rn + 5 * wn
  | .wsCmd => 9 + 4 * rn + 5 * wn
  | .wsPut => 10 + 4 * rn + 5 * wn
  | .wsSa => 11 + 4 * rn + 5 * wn
  | .check => 13 + 4 * rn + 5 * wn

section
variable {p : Params} {q q' : Sequencer} {k k' : Controller}

/-- A transfer comes closer to its end with every move but a busy poll. -/
theorem Sequencer.transferLeft_target (hin : q.st.inTransfer = true) (hphase : q.phaseOk)
    (h : (q.shape p).target q = some q') : q'.transferLeft < q.transferLeft := by
  unfold Sequencer.shape at h
  unfold Sequencer.phaseOk at hphase
  cases hst : q.st <;> rw [hst] at hin <;> simp only [hst] at h hphase
  case idle | doneOk | doneFail | idFill | idSn | idRefillSn | idMac | idRefillMac | idEnd => nomatch hin
  all_goals cases h
  case check | rphase => split_ifs <;> simp only [transferLeft, hst] <;> omega
  case wsPoll | rsGet =>
    have hone : (1 : Word).toNat = 1 := rfl
    unfold afterFirst
    split_ifs <;> simp only [transferLeft, hst, hone] <;> omega
  case wmErr | rmGet =>
    obtain ⟨hi, hlast⟩ := hphase
    have hsucc := toNat_ofNat_succ_of_lt (Nat.lt_of_lt_of_le (Nat.lt_add_of_pos_right Nat.two_pos) hlast)
    unfold afterMiddle
    split_ifs <;> simp only [transferLeft, hst, hsucc] <;> omega
  case w1Err | wfErr =>
    unfold afterWrite
    split_ifs <;> simp only [transferLeft, hst] <;> omega
  all_goals simp only [transferLeft, hst, leaveTo]; omega

/-- An abort is one step before the end. -/
theorem Sequencer.one_lt_transferLeft (hin : q.st.inTransfer = true) : 1 < q.transferLeft := by
  cases hst : q.st <;> rw [hst] at hin
  case idle | doneOk | doneFail | idFill | idSn | idRefillSn | idMac | idRefillMac | idEnd => nomatch hin
  all_goals simp only [transferLeft, hst]; omega

/-- A transfer keeps the registers of its request. -/
theorem Sequencer.request_target (hin : q.st.inTransfer = true) (h : (q.shape p).target q = some q') :
    q'.request = q.request := by
  unfold Sequencer.shape at h
  cases hst : q.st <;> rw [hst] at hin <;> simp only [hst] at h
  case idle | doneOk | doneFail | idFill | idSn | idRefillSn | idMac | idRefillMac | idEnd => nomatch hin
  all_goals cases h
  case check => split_ifs <;> rfl
  all_goals rfl

/-- A bound on the steps that an identity read has to go after the transfer it is in. -/
def Sequencer.stagesLeft (p : Params) (q : Sequencer) : Nat :=
  match q.mode, q.idstg with
  | .ident, .sn => 43 + 4 * p.macLen.toNat
  | .ident, .mac => 8
  | .xfer, _ | .none, _ => 0

/-- A bound on the steps that an identity read has to go from one of its own states. -/
def Sequencer.identityLeft (p : Params) (q : Sequencer) : Nat :=
  match q.st with
  | .idFill => 84 + 4 * p.macLen.toNat + 4 * p.snLen.toNat - q.j.toNat
  | .idSn => 62 + 4 * p.macLen.toNat + 4 * p.snLen.toNat
  | .idRefillSn => 43 + 4 * p.macLen.toNat - q.j.toNat
  | .idMac => 27 + 4 * p.macLen.toNat
  | .idRefillMac => 7 - q.j.toNat
  | .idEnd => 1
  | _ => 0

/-- A bound on the steps that the request in these registers has to go. -/
def Sequencer.left (p : Params) (q : Sequencer) : Nat :=
  if q.st.isIdentity then q.identityLeft p else q.transferLeft + q.stagesLeft p

theorem Sequencer.stagesLeft_of_request (h : q'.request = q.request) : q'.stagesLeft p = q.stagesLeft p := by
  have hmode : q'.mode = q.mode := (congrArg Sequencer.mode h :)
  have hstage : q'.idstg = q.idstg := (congrArg Sequencer.idstg h :)
  rw [stagesLeft, stagesLeft, hmode, hstage]

theorem Sequencer.left_of_transfer (h : q.st.isIdentity = false) : q.left p = q.transferLeft + q.stagesLeft p := by
  rw [left, h]
  rfl

/-- The end of a transfer inside an identity read comes closer to the end of the read. -/
theorem left_identityContinue (hmode : q.mode = .ident) : (identityContinue p q).left p < 1 + q.stagesLeft p := by
  by_cases hr : q.xok = false ∧ p.refillOnFailure = true
  · rw [identityContinue_of_refill hr]
    cases hstage : q.idstg <;> simp [Sequencer.left, Sequencer.stagesLeft, hmode, hstage, St.isIdentity, Sequencer.identityLeft]
  · rw [identityContinue_of_no_refill hr]
    cases hstage : q.idstg <;> simp [Sequencer.left, Sequencer.stagesLeft, hmode, hstage, St.isIdentity, Sequencer.identityLeft]
    omega

theorem Sequencer.left_of_idle (h : q.st = .idle) (hmode : q.mode = .none) : q.left p = 0 := by
  simp only [left_of_transfer (show q.st.isIdentity = false by rw [h]; rfl), transferLeft, stagesLeft, h, hmode]

/-- The end of a transfer, and every state of the Identity Reader's own, comes closer to the end of the request. -/
theorem Sequencer.left_target_of_not_transfer (hin : q.st.inTransfer = false) (hq : q.Consistent)
    (h : (q.shape p).target q = some q') : q'.left p < q.left p := by
  have hphase := hq.phase
  have hactive : q.st ≠ .idle := fun hst => by
    rw [Sequencer.shape, hst] at h
    nomatch h
  have hmode : q.mode ≠ .none := fun hm => hactive (hq.mode_idle.1 hm)
  have hend {r : Sequencer} (hr : (r.endShape p).target q = some q') (hrmode : r.mode = q.mode)
      (hstages : r.stagesLeft p = q.stagesLeft p) : q'.left p < 1 + q.stagesLeft p := by
    by_cases hx : r.mode = .xfer
    · rw [Sequencer.endShape, if_pos hx] at hr
      cases hr
      rw [left_of_idle rfl rfl]
      omega
    · have hident : r.mode = .ident := by
        rw [hrmode] at hx ⊢
        cases hm : q.mode <;> simp_all
      rw [Sequencer.endShape_of_ident hident] at hr
      cases hr
      rw [← hstages]
      exact left_identityContinue hident
  unfold Sequencer.shape at h
  unfold Sequencer.phaseOk at hphase
  cases hst : q.st <;> rw [hst] at hin <;> simp only [hst] at h hphase
  case doneOk =>
    rw [left_of_transfer (q := q) (by rw [hst]; rfl), show q.transferLeft = 1 by simp only [transferLeft, hst]]
    exact hend h rfl rfl
  case doneFail =>
    rw [left_of_transfer (q := q) (by rw [hst]; rfl), show q.transferLeft = 1 by simp only [transferLeft, hst]]
    exact hend h rfl rfl
  case idle => exact absurd hst hactive
  case idFill | idRefillSn | idRefillMac =>
    cases h
    have hsucc : (q.j + 1).toNat = q.j.toNat + 1 := by
      rw [BitVec.toNat_add]
      exact Nat.mod_eq_of_lt (show q.j.toNat + 1 < 32 by omega)
    unfold afterSentinel
    split_ifs <;> simp only [left, identityLeft, hst, St.isIdentity, if_true, hsucc] <;> omega
  case idSn | idMac =>
    have hident : q.mode = .ident := hq.identity_mode (by rw [hst]; rfl)
    cases h
    simp [left, identityLeft, hst, St.isIdentity, transferLeft, stagesLeft, hident]
    omega
  case idEnd =>
    cases h
    rw [left_of_idle rfl rfl]
    simp [left, identityLeft, hst, St.isIdentity]
  all_goals nomatch hin

end

end Sys2Proof.Machine

namespace Sys2Proof.Machine

section
variable {p : Params} {q q' : Sequencer} {k k' : Controller}

theorem Sequencer.isPoll_of_shape {r : Sequencer} (h : q.shape p = .poll r) : q.st.isPoll = true := by
  unfold Sequencer.shape Sequencer.endShape at h
  cases hst : q.st <;> simp only [hst] at h
  case doneOk | doneFail => split_ifs at h
  case w1Poll | wsPoll | wmPoll | wfPoll | r1Poll | rsPoll | rmPoll | rfPoll | rpPoll => rfl
  all_goals nomatch h

/-- Every move but a busy poll that is counted comes closer to the end of the request. -/
theorem Shape.Moves.left_lt (hq : q.Consistent) (h : (q.shape p).Moves p q k q' k') :
    q'.left p < q.left p ∨ q.st.isPoll = true ∧ k.busy = true ∧ ∃ v, q' = { q with tc := v } := by
  rcases h.target_cases with htarget | ⟨⟨r, hr⟩, c, rfl⟩ | ⟨⟨r, hr⟩, hbusy, hcount⟩
  · refine .inl ?_
    cases hin : q.st.inTransfer
    · exact Sequencer.left_target_of_not_transfer hin hq htarget
    · have hreq := Sequencer.request_target hin htarget
      rw [Sequencer.left_of_transfer (h.continues hin hq.phase).transfer, Sequencer.left_of_transfer (St.active_of_inTransfer hin).2,
        Sequencer.stagesLeft_of_request hreq]
      exact Nat.add_lt_add_right (Sequencer.transferLeft_target hin hq.phase htarget) _
  · have hin := Sequencer.inTransfer_of_poll_or_check hr
    have hone := Sequencer.one_lt_transferLeft hin
    rw [Sequencer.left_of_transfer (q := q) (St.active_of_inTransfer hin).2]
    exact .inl (Nat.add_lt_add_right hone _)
  · exact .inr ⟨Sequencer.isPoll_of_shape hr, hbusy, hcount⟩

/-- From a state of the Identity Reader's own a move goes to another, or begins a transfer, or completes the request. -/
theorem Shape.Moves.of_identity (hid : q.st.isIdentity = true) (h : (q.shape p).Moves p q k q' k') :
    q'.st.isIdentity = true ∨ q' = q.snTransaction p ∨ q' = q.macTransaction p ∨ q'.st = .idle := by
  unfold Sequencer.shape at h
  cases hst : q.st <;> rw [hst] at hid <;> simp only [hst] at h
  case idFill | idRefillSn | idRefillMac =>
    obtain ⟨-, rfl⟩ := h
    exact .inl (afterSentinel_isIdentity (by rw [hst]; rfl) rfl)
  case idSn => exact .inr (.inl h.2)
  case idMac => exact .inr (.inr (.inl h.2))
  case idEnd =>
    obtain ⟨-, rfl⟩ := h
    exact .inr (.inr (.inr rfl))
  all_goals nomatch hid

end

/-! ### What a request may yet access is admitted -/

section
variable {s t : State} {n : Nat}

/-- The premise of a request stays, to its completion, with every move of its sequencer. -/
theorem State.RequestAdmitted.of_moves {k k' : Controller} (hadm : s.RequestAdmitted n) (hq : (s.seq n).Consistent)
    (hcfg : t.cfg = s.cfg) (hadmission : t.admission = s.admission)
    (h : ((s.seq n).shape s.cfg).Moves s.cfg (s.seq n) k (t.seq n) k') : (t.seq n).st = .idle ∨ t.RequestAdmitted n := by
  have hadmits (kind : Access) (base len : Nat) : t.Admitted kind base len ↔ s.Admitted kind base len := by
    simp only [State.Admitted, State.admits, hcfg, hadmission]
  obtain ⟨hread, hwrite, hout⟩ := hadm
  rcases h.finish_or_sameRequest with ⟨b, hfinish⟩ | hsame
  · obtain ⟨-, c, hc⟩ := Sequencer.finish_spec hfinish
    exact .inl (by rw [hc])
  refine .inr ⟨fun hmode => ?_, fun hst => ?_, fun hmode => ?_⟩
  · rw [hadmits]
    rw [hsame.mode] at hmode
    have hnot : (s.seq n).st.isIdentity ≠ true := fun hid => by simp [hq.identity_mode hid] at hmode
    have hlatch := h.keeps_latch (fun hst => hnot (by rw [hst]; rfl)) (fun hst => hnot (by rw [hst]; rfl))
    obtain ⟨-, hwp, hwn, -, -⟩ := Sequencer.latch_eq_iff.1 hlatch
    rw [hwp, hwn]
    exact hread hmode
  · rw [hadmits]
    cases hid : (s.seq n).st.isIdentity
    · have hlatch := h.keeps_latch (fun hst => by rw [hst] at hid; nomatch hid) (fun hst => by rw [hst] at hid; nomatch hid)
      obtain ⟨-, -, -, hrp, hrn⟩ := Sequencer.latch_eq_iff.1 hlatch
      rw [hrp, hrn]
      exact hwrite hid
    · obtain ⟨hsn, hmac⟩ := hout (hq.identity_mode hid)
      rcases h.of_identity hid with hid' | hsnT | hmacT | hidle
      · exact absurd (hid'.symm.trans hst) nofun
      · rw [hsnT]
        exact fun i hi => hsn i (lt_of_lt_of_le hi (le_max_right _ _))
      · rw [hmacT]
        exact fun i hi => hmac i (lt_of_lt_of_le hi (le_max_right _ _))
      · exact absurd hidle hsame.active
  · rw [hadmits, hadmits, hsame.snp, hsame.macp, hcfg]
    exact hout (hsame.mode ▸ hmode)

theorem State.RequestAdmitted.admits_store {a : Nat} (hadm : s.RequestAdmitted n) (hq : (s.seq n).Consistent)
    (ha : s.storeTarget n = some a) : s.admits .write a = true := by
  obtain ⟨-, hwrite, hout⟩ := hadm
  have hphase := hq.phase
  have hident := hq.identity_mode
  unfold State.storeTarget at ha
  unfold Sequencer.phaseOk at hphase
  cases hst : (s.seq n).st <;> rw [hst] at hwrite hident <;> simp only [hst] at ha hphase <;> cases ha
  case r1Get | rsGet => exact hwrite rfl 0 (by omega)
  case rmGet => exact hwrite rfl _ (by omega)
  case rfGet => exact hwrite rfl _ (show (s.seq n).rn.toNat - 1 < (s.seq n).rn.toNat by omega)
  case idFill =>
    obtain ⟨hsn, hmac⟩ := hout (hident rfl)
    split_ifs with hj
    · exact hsn _ (by omega)
    · exact hmac _ (by omega)
  case idRefillSn => exact (hout (hident rfl)).1 _ (by omega)
  case idRefillMac => exact (hout (hident rfl)).2 _ (by omega)

theorem State.RequestAdmitted.admits_load {a : Nat} (hadm : s.RequestAdmitted n) (hq : (s.seq n).Consistent)
    (ha : s.loadTarget n = some a) : s.admits .read a = true := by
  obtain ⟨hread, -, -⟩ := hadm
  unfold State.loadTarget at ha
  split at ha
  next hsrc =>
    obtain ⟨i, hi, rfl⟩ := Option.map_eq_some_iff.1 ha
    have hphase := hq.phase
    unfold State.loadIndex at hi
    unfold Sequencer.phaseOk at hphase
    have hlt : i < (s.seq n).wn.toNat ∧ (s.seq n).st ≠ .idle ∧ (s.seq n).st.isIdentity = false := by
      cases hst : (s.seq n).st <;> simp only [hst] at hi hphase <;> cases hi
      case w1Put | wsPut | wmPut => exact ⟨by omega, nofun, rfl⟩
      case wfPut => exact ⟨by rw [lastIndex]; omega, nofun, rfl⟩
    obtain ⟨hlt, hactive, hid⟩ := hlt
    refine hread ?_ i hlt
    cases hmode : (s.seq n).mode with
    | xfer => rfl
    | none => exact absurd (hq.mode_idle.1 hmode) hactive
    | ident => exact absurd (hsrc.symm.trans (hq.ident_const hmode hid).1) nofun
  next => nomatch ha

/-- A request in progress whose buffers are admitted is never stuck. -/
theorem State.RequestAdmitted.enabled (hadm : s.RequestAdmitted n) (hq : (s.seq n).Consistent) (hst : (s.seq n).st ≠ .idle) :
    s.Enabled n :=
  ⟨hst, fun _ => hadm.admits_store hq, fun _ => hadm.admits_load hq⟩

end

end Sys2Proof.Machine

namespace Sys2Proof.Machine

section
variable {s t u : State} {n : Nat}

theorem Sequencer.idle_of_shape_still {p : Params} {q : Sequencer} (h : q.shape p = .still) : q.st = .idle := by
  unfold Sequencer.shape Sequencer.endShape at h
  cases hst : q.st <;> simp only [hst] at h
  case idle => rfl
  case doneOk | doneFail => split_ifs at h
  all_goals nomatch h

/-- A step of an enabled sequencer that goes on is a move: it is not stuck. -/
theorem seqStep_moves_of_enabled (he : s.Enabled n) (h : seqStep n s = .next t) :
    ∃ k', ((s.seq n).shape s.cfg).Moves s.cfg (s.seq n) (s.ctl (s.seq n).ctlid) (t.seq n) k' := by
  obtain ⟨hactive, hstore, hload⟩ := he
  rcases seqStep_effect h with ⟨rfl, hstuck⟩ | ⟨q', k', eff⟩
  · rw [State.storeTarget_eq] at hstore
    rw [seqStep_shape] at h
    rcases hstuck with hstill | ⟨i, q, hsh | ⟨q', hsh⟩ | ⟨q', hsh⟩⟩
    · exact absurd (Sequencer.idle_of_shape_still hstill) hactive
    · rw [hsh] at h ⊢
      obtain ⟨b, u, hw, -⟩ := writeByte_of_admitted (s := t) (n := n) (i := i) fun hsrc =>
        hload _ (by simp [State.loadTarget, hsrc, State.loadIndex_eq, hsh, Shape.loads, bufferAddr])
      rcases putStep_cases n i q t with ⟨hnone, -⟩ | ⟨b', u', hw', ⟨-, e⟩ | ⟨hb, e⟩⟩
      · nomatch hw.symm.trans hnone
      · nomatch e.symm.trans h
      · have ht := Host.Outcome.next.inj (e.symm.trans h)
        have hseq : t.seq n = { t.seq n with st := q } := by
          conv_lhs => rw [← ht]
          simp [State.goto, State.seq_congr (writeByte_same hw').1]
        exact ⟨_, hb, hseq, b', rfl⟩
    · rw [hsh] at h hstore ⊢
      obtain ⟨u, -, hu, -, -, -, -, -, -, -, -, hseq⟩ := seqStep_pull hsh (hstore _ rfl)
      rw [seqStep_of_shape hsh] at hu
      cases hu.symm.trans h
      exact ⟨_, rfl, hseq⟩
    · rw [hsh] at h hstore ⊢
      rcases sentinelStep_cases n i (fun _ => q') t with ⟨hrefused, -⟩ | ⟨-, e⟩
      · exact absurd ((hstore _ rfl).symm.trans hrefused) nofun
      · have ht := Host.Outcome.next.inj (e.symm.trans h)
        have hseq : t.seq n = q' := by
          conv_lhs => rw [← ht]
          simp
        exact ⟨_, rfl, hseq⟩
  · refine ⟨k', ?_⟩
    rw [eff.seq, if_pos rfl]
    exact eff.moves

/-! ### What a turn does for a request in progress -/

/-- Instance `n` works on a request whose buffers are admitted, in a machine that meets the invariant. -/
structure State.InProgress (s : State) (n : Nat) : Prop where
  inv : s.Inv
  active : (s.seq n).st ≠ .idle
  admitted : s.RequestAdmitted n

/-- Instance `n` polls a busy controller. -/
def State.Waits (s : State) (n : Nat) : Prop := (s.seq n).st.isPoll = true ∧ (s.ctl (s.seq n).ctlid).busy = true

/-- From `s` to `t` the request of instance `n` has not gone back, nor has its sequencer begun to wait without a step of its own. -/
structure State.Advances (s t : State) (n : Nat) : Prop where
  progress : t.InProgress n
  cfg : t.cfg = s.cfg
  ctlid : (t.seq n).ctlid = (s.seq n).ctlid
  le : (t.seq n).left s.cfg ≤ (s.seq n).left s.cfg
  free : ¬s.Waits n → ¬t.Waits n ∨ (t.seq n).left s.cfg < (s.seq n).left s.cfg

theorem State.InProgress.enabled (h : s.InProgress n) : s.Enabled n := h.admitted.enabled (h.inv.consistent n) h.active

theorem State.Advances.refl (h : s.InProgress n) : s.Advances s n := ⟨h, rfl, rfl, le_rfl, .inl⟩

theorem State.Advances.trans (h : s.Advances t n) (h' : t.Advances u n) : s.Advances u n := by
  obtain ⟨-, hcfg, hctlid, hle, hfree⟩ := h
  obtain ⟨hprogress, hcfg', hctlid', hle', hfree'⟩ := h'
  rw [hcfg] at hle' hfree'
  refine ⟨hprogress, hcfg'.trans hcfg, hctlid'.trans hctlid, hle'.trans hle, fun hs => ?_⟩
  rcases hfree hs with ht | hlt
  · exact (hfree' ht).imp_right fun h => lt_of_lt_of_le h hle
  · exact .inr (lt_of_le_of_lt hle' hlt)

/-- A turn that is not its own, nor a reset, makes the controller of a request in progress busy under no circumstance but by the
driver of the port. -/
theorem runTurn_keeps_free {τ : Turn} (hs : s.InProgress n) (h : runTurn τ s = .next t) (hseq : τ ≠ .seq n)
    (hreset : ∀ ds, τ ≠ .reset ds) (hdrive : ∀ g w, τ ≠ .drive g w) (hbusy : (t.ctl (s.seq n).ctlid).busy = true) :
    (s.ctl (s.seq n).ctlid).busy = true := by
  cases τ with
  | submit m ws =>
    rcases submitRequest_cases h with rfl | ⟨-, i, -, hreq, hexec⟩
    · exact hbusy
    · obtain ⟨-, ⟨-, rfl⟩ | ⟨-, -, -, rfl⟩⟩ := exec_request hreq hexec <;> exact hbusy
  | readResult m =>
    obtain ⟨o, rfl⟩ := hostRead_cases h
    exact hbusy
  | seq m =>
    rcases seqStep_effect h with ⟨rfl, -⟩ | ⟨q', k', eff⟩
    · exact hbusy
    · have hne : n ≠ m := fun e => hseq (by rw [e])
      rwa [eff.ctl, if_neg (hs.inv.ctlid_ne hs.active eff.moves.active hne)] at hbusy
  | complete g e d =>
    cases h
    rcases completeCommand_cases g e d s with ⟨-, h⟩ | ⟨c, -, h⟩ <;> rw [h] at hbusy
    · exact hbusy
    · change ((s.setCtl g _).ctl _).busy = true at hbusy
      rw [State.ctl_setCtl] at hbusy
      split_ifs at hbusy
      · nomatch hbusy
      · exact hbusy
  | drive g w => exact absurd rfl (hdrive g w)
  | agentWrite v b => cases h; rwa [agentWrite, State.ctl_store] at hbusy
  | agentRead v =>
    cases h
    obtain ⟨-, -, hctl, -⟩ := agentRead_effect v s
    rwa [hctl] at hbusy
  | reset ds => exact absurd rfl (hreset ds)

/-- After a turn of the controller to complete what it has in flight, it is idle. -/
theorem completeCommand_free (hs : s.Inv) (g : Handle) (e : BusErr) (d : Byte) : ((completeCommand g e d s).ctl g).busy = false := by
  cases hi : (s.ctl g).infl with
  | none =>
    rw [completeCommand_of_idle hi, hs.legal g, hi]
    rfl
  | some c =>
    rw [(completeCommand_effect hi).1]
    rfl

/-- Every turn, of whatever agent but a driver of the port, advances the request or has completed it. -/
theorem runTurn_advances {τ : Turn} (hs : s.InProgress n) (hdrive : ∀ g w, τ ≠ .drive g w) (h : runTurn τ s = .next t) :
    (t.seq n).st = .idle ∨ s.Advances t n ∧
      (τ = .seq n → ¬s.Waits n → (t.seq n).left s.cfg < (s.seq n).left s.cfg) ∧
      (∀ e d, τ = .complete (s.seq n).ctlid e d → ¬t.Waits n) := by
  have hinv := runTurn_keeps_inv hs.inv h
  obtain ⟨hcfg, hadmission, -⟩ := runTurn_sameWorld h
  by_cases hτ : τ = .seq n
  · subst hτ
    obtain ⟨k', hmoves⟩ := seqStep_moves_of_enabled hs.enabled h
    refine or_iff_not_imp_left.2 fun hactive => ?_
    have hadm := (hs.admitted.of_moves (hs.inv.consistent n) hcfg hadmission hmoves).resolve_left hactive
    obtain ⟨-, hctlid⟩ := hmoves.keeps_binding
    rcases hmoves.left_lt (hs.inv.consistent n) with hlt | ⟨hpoll, hbusy, v, hv⟩
    · exact ⟨⟨⟨hinv, hactive, hadm⟩, hcfg, hctlid, hlt.le, fun _ => .inr hlt⟩, fun _ _ => hlt, nofun⟩
    · have hwaits : s.Waits n := ⟨hpoll, hbusy⟩
      exact ⟨⟨⟨hinv, hactive, hadm⟩, hcfg, hctlid, by rw [hv]; exact le_rfl, fun hw => absurd hwaits hw⟩,
        fun _ hw => absurd hwaits hw, nofun⟩
  · by_cases hreset : ∃ ds, τ = .reset ds
    · obtain ⟨ds, rfl⟩ := hreset
      cases h
      obtain ⟨hseqs, -⟩ := resetAll_same ds s
      exact .inl (by rw [State.seq, hseqs]; rfl)
    · have hseq : t.seq n = s.seq n := by
        rcases runTurn_seq h n with e | ⟨ws, i, rfl, -⟩ | ⟨e, -⟩ | e
        · exact e
        · exact submitRequest_keeps_active h hs.active
        · exact absurd e hτ
        · exact absurd e hreset
      have hadmits (kind : Access) (base len : Nat) : t.Admitted kind base len ↔ s.Admitted kind base len := by
        simp only [State.Admitted, State.admits, hcfg, hadmission]
      have hprogress : t.InProgress n := by
        refine ⟨hinv, by rw [hseq]; exact hs.active, ?_⟩
        simpa only [State.RequestAdmitted, hseq, hadmits, hcfg] using hs.admitted
      refine .inr ⟨⟨hprogress, hcfg, by rw [hseq], by rw [hseq], fun hw => .inl fun hw' => hw ?_⟩, fun e => absurd e hτ,
        fun e d he => ?_⟩
      · obtain ⟨hpoll, hbusy⟩ := hw'
        rw [hseq] at hpoll hbusy
        exact ⟨hpoll, runTurn_keeps_free hs h hτ (not_exists.1 hreset) hdrive hbusy⟩
      · subst he
        cases h
        intro hw'
        have hbusy := hw'.2
        rw [hseq, completeCommand_free hs.inv] at hbusy
        nomatch hbusy

end

end Sys2Proof.Machine

namespace Sys2Proof.Machine

section
variable {s t u v : State} {n m : Nat} {rest : List Turn}

/-! ### A run that goes on for ever -/

theorem State.InProgress.withEnv (h : s.InProgress n) (env : List Turn) : ({ s with env := env } : State).InProgress n := by
  obtain ⟨-, hctls, hmem⟩ := State.tablesWf_iff.1 h.inv.tables
  exact ⟨h.inv.of_same_seqs rfl rfl hctls hmem h.inv.legal, h.active, h.admitted⟩

/-- A turn taken off the list advances the request, or has completed it. -/
theorem step_advances {τ : Turn} (hs : s.InProgress n) (henv : s.env = τ :: rest) (hdrive : ∀ g w, τ ≠ .drive g w)
    (h : step s = .next t) :
    (t.seq n).st = .idle ∨ s.Advances t n ∧ t.env = rest ∧
      (τ = .seq n → ¬s.Waits n → (t.seq n).left s.cfg < (s.seq n).left s.cfg) ∧
      (∀ e d, τ = .complete (s.seq n).ctlid e d → ¬t.Waits n) := by
  rw [step_of_env henv] at h
  obtain ⟨-, -, henv'⟩ := runTurn_sameWorld h
  refine (runTurn_advances (hs.withEnv rest) hdrive h).imp_right fun ⟨hadv, hseq, hcomplete⟩ => ⟨?_, henv', hseq, hcomplete⟩
  exact ⟨hadv.progress, hadv.cfg, hadv.ctlid, hadv.le, hadv.free⟩

/-- The first part of the statement, for a run in which the instance is never `IDLE`. -/
theorem no_run_without_completion {turn : Nat → Turn} {state : Nat → State} (hrun : IsRun turn state)
    (hinv : (state 0).Inv) (hadm : (state 0).RequestAdmitted n) (hdrive : ∀ i g w, turn i ≠ .drive g w)
    (hfair : WeaklyFair n turn state) (hctl : CtlCompletes ((state 0).seq n).ctlid state)
    (hactive : ∀ i, ((state i).seq n).st ≠ .idle) : False := by
  have hstep (i : Nat) (hs : (state i).InProgress n) : (state i).Advances (state (i + 1)) n ∧
      (turn i = .seq n → ¬(state i).Waits n → ((state (i + 1)).seq n).left (state i).cfg < ((state i).seq n).left (state i).cfg) := by
    obtain ⟨hadv, -, hseq, -⟩ := (step_advances (hs.withEnv [turn i]) rfl (hdrive i) (hrun i)).resolve_left (hactive _)
    exact ⟨⟨hadv.progress, hadv.cfg, hadv.ctlid, hadv.le, hadv.free⟩, hseq⟩
  have hprogress (i : Nat) : (state i).InProgress n := by
    induction i with
    | zero => exact ⟨hinv, hactive 0, hadm⟩
    | succ i ih => exact (hstep i ih).1.progress
  have hadvances (i k : Nat) : (state i).Advances (state (i + k)) n := by
    induction k with
    | zero => exact .refl (hprogress i)
    | succ k ih => exact ih.trans (hstep (i + k) (hprogress _)).1
  have hcomes (i : Nat) : ∃ j, i ≤ j ∧ ¬(state j).Waits n := by
    by_cases hw : (state i).Waits n
    · have hid (j : Nat) : ((state j).seq n).ctlid = ((state 0).seq n).ctlid := by simpa using (hadvances 0 j).ctlid
      have hinfl : ((state i).ctl ((state 0).seq n).ctlid).infl.isSome = true := by
        rw [← hid i, ← (hprogress i).inv.legal]
        exact hw.2
      obtain ⟨j, hij, hnone⟩ := hctl i hinfl
      refine ⟨j, hij, fun hw' => ?_⟩
      have hbusy := hw'.2
      rw [hid j, (hprogress j).inv.legal, hnone] at hbusy
      nomatch hbusy
    · exact ⟨i, le_rfl, hw⟩
  have key (r i : Nat) : ¬((state i).seq n).left (state 0).cfg < r := by
    induction r generalizing i with
    | zero => exact Nat.not_lt_zero _
    | succ r ih =>
      intro hlt
      obtain ⟨j, hij, hfree⟩ := hcomes i
      obtain ⟨k, hjk, hturn⟩ := hfair j fun k _ => (hprogress k).enabled
      have hcfg (i : Nat) : (state i).cfg = (state 0).cfg := by simpa using (hadvances 0 i).cfg
      have hle (a b : Nat) (hab : a ≤ b) : (state a).Advances (state b) n := by
        obtain ⟨d, rfl⟩ := Nat.exists_eq_add_of_le hab
        exact hadvances a d
      have h1 := (hle i j hij).le
      have h2 := (hle j k hjk).le
      have h3 := (hstep k (hprogress k)).1.le
      have h4 := (hle j k hjk).free hfree
      have h5 := (hstep k (hprogress k)).2 hturn
      simp only [hcfg] at h1 h2 h3 h4 h5
      have hlast : ((state (k + 1)).seq n).left (state 0).cfg < ((state j).seq n).left (state 0).cfg := by
        rcases h4 with hnot | hless
        · exact lt_of_lt_of_le (h5 hnot) h2
        · exact lt_of_le_of_lt h3 hless
      exact ih (k + 1) (by omega)
  exact key _ 0 (Nat.lt_succ_self _)

/-! ### A bounded run -/

/-- `k` steps lead from `s` to `v`, and instance `n` is not `IDLE` in any state of them. -/
structure ActiveRun (n k : Nat) (s v : State) : Prop where
  run : Host.Core.run Sys2Proof.core k s = .next v
  active : ∀ j u, j ≤ k → Host.Core.run Sys2Proof.core j s = .next u → (u.seq n).st ≠ .idle

/-- The first step of a run. -/
theorem run_succ_cases {a : Nat} (h : Host.Core.run Sys2Proof.core (a + 1) s = .next v) :
    ∃ u, step s = .next u ∧ Host.Core.run Sys2Proof.core a u = .next v := by
  simp only [Host.Core.run] at h
  cases hstep : Sys2Proof.core.step s with
  | next u => exact ⟨u, hstep, by simpa only [hstep] using h⟩
  | fault e | refused e => simp only [hstep, reduceCtorEq] at h

theorem run_add_of_next {a : Nat} (h : Host.Core.run Sys2Proof.core a s = .next t) (b : Nat) :
    Host.Core.run Sys2Proof.core (a + b) s = Host.Core.run Sys2Proof.core b t := by
  induction a generalizing s with
  | zero =>
    cases h
    rw [Nat.zero_add]
  | succ a ih =>
    obtain ⟨u, hstep, h⟩ := run_succ_cases h
    rw [Nat.add_right_comm, run_succ_of_step hstep, ih h]

theorem run_next_prefix {a b : Nat} (h : Host.Core.run Sys2Proof.core (a + b) s = .next v) :
    ∃ t, Host.Core.run Sys2Proof.core a s = .next t := by
  induction a generalizing s with
  | zero => exact ⟨s, rfl⟩
  | succ a ih =>
    rw [Nat.add_right_comm] at h
    obtain ⟨u, hstep, h⟩ := run_succ_cases h
    exact (ih h).imp fun t ht => (run_succ_of_step hstep a).trans ht

theorem ActiveRun.split {a b : Nat} (h : ActiveRun n (a + b) s v) : ∃ t, ActiveRun n a s t ∧ ActiveRun n b t v := by
  obtain ⟨t, ht⟩ := run_next_prefix h.run
  have hadd := run_add_of_next ht
  exact ⟨t, ⟨ht, fun j u hj => h.active j u (by omega)⟩, (hadd b).symm.trans h.run,
    fun j u hj hu => h.active (a + j) u (by omega) ((hadd j).trans hu)⟩

theorem ActiveRun.uncons {k : Nat} (h : ActiveRun n (k + 1) s v) :
    ∃ t, step s = .next t ∧ (t.seq n).st ≠ .idle ∧ ActiveRun n k t v := by
  rw [Nat.add_comm] at h
  obtain ⟨t, hone, hrest⟩ := h.split
  obtain ⟨u, hstep, hu⟩ := run_succ_cases hone.run
  cases hu
  exact ⟨_, hstep, hrest.active 0 _ (Nat.zero_le k) rfl, hrest⟩

/-- Turns taken off the list advance a request that they do not complete. -/
theorem turns_advance {ts : List Turn} (hs : s.InProgress n) (henv : s.env = ts ++ rest) (hdrive : undriven ts)
    (hrun : ActiveRun n ts.length s v) : s.Advances v n ∧ v.env = rest := by
  induction ts generalizing s with
  | nil =>
    cases hrun.run
    exact ⟨.refl hs, henv⟩
  | cons τ ts ih =>
    obtain ⟨t, hstep, hactive, hrun⟩ := hrun.uncons
    have hτ (g : Handle) (w : PortWord) : τ ≠ .drive g w := fun e => hdrive g w (e ▸ List.mem_cons_self)
    obtain ⟨hadv, henv, -⟩ := (step_advances hs henv hτ hstep).resolve_left hactive
    obtain ⟨hadv', henv'⟩ := ih hadv.progress henv (fun g w hw => hdrive g w (List.mem_cons_of_mem τ hw)) hrun
    exact ⟨hadv.trans hadv', henv'⟩

/-- A round that serves the instance brings a request that it does not complete nearer to its end: after the turn of its
controller the sequencer does not wait, and so has gone on when its own turn is over. -/
theorem round_advances {round : List Turn} (hs : s.InProgress n) (henv : s.env = round ++ rest) (hdrive : undriven round)
    (hserves : servesRound n (s.seq n).ctlid round) (hrun : ActiveRun n round.length s v) :
    s.Advances v n ∧ v.env = rest ∧ (v.seq n).left s.cfg < (s.seq n).left s.cfg := by
  obtain ⟨before, between, behind, e, d, rfl⟩ := hserves
  simp only [undriven, List.mem_append, List.mem_cons, not_or] at hdrive
  simp only [List.append_assoc, List.cons_append] at henv
  simp only [List.length_append, List.length_cons] at hrun
  obtain ⟨s₁, hbefore, hrun⟩ := hrun.split
  obtain ⟨hadv₁, henv₁⟩ := turns_advance hs henv (fun g w => (hdrive g w).1) hbefore
  obtain ⟨s₂, hcomplete, hactive₂, hrun⟩ := hrun.uncons
  obtain ⟨hadv₂, henv₂, -, hfree₂⟩ := (step_advances hadv₁.progress henv₁ nofun hcomplete).resolve_left hactive₂
  obtain ⟨s₃, hbetween, hrun⟩ := hrun.split
  obtain ⟨hadv₃, henv₃⟩ := turns_advance hadv₂.progress henv₂ (fun g w => (hdrive g w).2.2.1) hbetween
  obtain ⟨s₄, hseq, hactive₄, hbehind⟩ := hrun.uncons
  obtain ⟨hadv₄, henv₄, hless₄, -⟩ := (step_advances hadv₃.progress henv₃ nofun hseq).resolve_left hactive₄
  obtain ⟨hadv₅, henv₅⟩ := turns_advance hadv₄.progress henv₄ (fun g w => (hdrive g w).2.2.2.2) hbehind
  have hfree := hadv₃.free (hfree₂ e d (by rw [hadv₁.ctlid]))
  have h₂ := (hadv₁.trans hadv₂).le
  have h₅ := hadv₅.le
  have h₃ := hadv₃.le
  have h₄ := hadv₄.le
  have hcfg₂ := (hadv₁.trans hadv₂).cfg
  have hcfg₃ := hadv₃.cfg.trans hcfg₂
  have hcfg₄ := hadv₄.cfg.trans hcfg₃
  rw [hcfg₂] at hfree h₃
  rw [hcfg₃] at h₄ hless₄
  rw [hcfg₄] at h₅
  refine ⟨((hadv₁.trans hadv₂).trans hadv₃).trans (hadv₄.trans hadv₅), henv₅, ?_⟩
  rcases hfree with hnot | hless
  · have := hless₄ rfl hnot
    omega
  · omega

/-- More rounds than the request has steps left cannot all leave it in progress. -/
theorem no_rounds_without_completion {rounds : List (List Turn)} (hs : s.InProgress n) (henv : s.env = rounds.flatten ++ rest)
    (hdrive : undriven rounds.flatten) (hserves : ∀ r ∈ rounds, servesRound n (s.seq n).ctlid r)
    (hmany : (s.seq n).left s.cfg < rounds.length) : ¬ActiveRun n rounds.flatten.length s v := by
  induction rounds generalizing s with
  | nil => exact absurd hmany (Nat.not_lt_zero _)
  | cons round rounds ih =>
    intro hrun
    simp only [List.flatten_cons, List.length_append, List.append_assoc] at henv hrun
    simp only [undriven, List.flatten_cons, List.mem_append, not_or] at hdrive
    rw [List.forall_mem_cons] at hserves
    obtain ⟨t, hround, hrun⟩ := hrun.split
    obtain ⟨hadv, henvt, hless⟩ := round_advances hs henv (fun g w => (hdrive g w).1) hserves.1 hround
    refine ih hadv.progress henvt (fun g w => (hdrive g w).2) ?_ ?_ hrun
    · rw [hadv.ctlid]
      exact hserves.2
    · rw [hadv.cfg]
      rw [List.length_cons] at hmany
      omega

end

/-- Settles O54: the steps that the request has left are a rank that no turn raises; a step of its own that does not poll a busy
controller lowers it, and a turn of the controller ends the polling. -/
theorem requestCompletesUnderProgress : Obligations.RequestCompletesUnderProgress := by
  refine ⟨fun n turn state hrun hinv hadm hdrive hfair hctl => ?_, fun n s hinv hactive hadm => ?_⟩
  · by_contra hnever
    exact no_run_without_completion hrun hinv hadm hdrive hfair hctl (not_exists.1 hnever)
  · refine ⟨(s.seq n).left s.cfg + 1, fun rounds t hmany hserves hdrive hrun => ?_⟩
    by_contra hnever
    have hs : s.InProgress n := ⟨hinv, hactive, hadm⟩
    exact no_rounds_without_completion (hs.withEnv (rounds.flatten ++ s.env)) rfl hdrive hserves hmany
      ⟨hrun, fun j u hj hu hidle => hnever ⟨j, u, hj, hu, hidle⟩⟩

end Sys2Proof.Machine
